-- ==== Sys2Proof/Word.lean ====
section
/-!
DEFINITION. The word types of the display sequencer (00_scope.md R12, R13): a byte is 8 bits with bit 7
the most significant; coordinates and COLOR window bounds are 16 bits; a declared buffer size is 32 bits.
-/

namespace Sys2Proof

/-- A byte: 8 bits, bit 7 the most significant (R13). -/
abbrev Byte := BitVec 8

/-- A 16-bit value: a coordinate, a descriptor field, a COLOR window bound (R12, R60). -/
abbrev Half := BitVec 16

/-- A 32-bit value: the declared size of a pixel buffer (R60). -/
abbrev Word32 := BitVec 32

end Sys2Proof
end

