-- ==== Sys2Proof/Config.lean ====
section
/-!
DEFINITION. What an instance is built with: the per-unit configuration records, the block constants `K`,
the opcode record `OP` (10_state.md section 4, 30_encoding.md R160 and R161), and the free values the spec
leaves open about the panel (93_implementation_defined.md). The values an instance is built with stand in
`Machine.State`, so that a statement about every state is a statement about every configuration.
-/

namespace Sys2Proof

/-- `cfg.chip` of a MONO instance (R45). -/
inductive Chip where
  | ssd1306
  | sh1106
  | ssd1309
deriving DecidableEq, Repr

/-- The transport behind an instance (R30, R105, R106): selected at construction. -/
inductive Bus where
  /-- I2C with `cfg.bus.i2c_addr`, a 7-bit address the source does not give (D39). -/
  | i2c (addr : BitVec 7)
  | spi
deriving DecidableEq, Repr

/-- A supply-gate or backlight GPIO handle; its physical polarity is a platform parameter (R406). -/
structure GpioHandle where
  activeHigh : Bool
deriving DecidableEq, Repr

/-- The backlight PWM handle with its period in the PWM's own time unit (R58). -/
structure PwmHandle where
  period : Nat
deriving DecidableEq, Repr

/-- The formats a COLOR instance can be compiled for (R21, R56). -/
inductive ColorFormat where
  | rgb565
  | rgb888
deriving DecidableEq, Repr

/-- The configuration of a MONO instance (R45 to R54), read-only after construction. -/
structure MonoCfg where
  chip : Chip
  width : Half
  height : Half
  segmentOffset : Byte
  /-- Kept as a field and read by no rule (R47, D36). -/
  pageOffset : Byte
  displayOffset : Byte
  multiplexRatio : Byte
  segmentRemap : Bool
  comScanFlipped : Bool
  comPadCfg : Byte
  colorInversion : Bool
  clockDiv : Byte
  precharge : Byte
  internalIref : Bool
  bus : Bus
  /-- `cfg.reset_gpio` present; the line is active low (R406). -/
  resetGpio : Bool
  supplyGpio : Option GpioHandle
  tPowerSettle : Nat
deriving DecidableEq, Repr

/-- The configuration of a COLOR instance (R55 to R58), read-only after construction. -/
structure ColorCfg where
  width : Half
  height : Half
  xOffset : Half
  yOffset : Half
  pixelFormat : ColorFormat
  cmd2enParam : List Byte
  porchParam : List Byte
  pwctrl1Param : List Byte
  pvgamParam : List Byte
  nvgamParam : List Byte
  ramParam : List Byte
  rgbParam : List Byte
  gctrl : Byte
  vcom : Byte
  mdac : Byte
  colmod : Byte
  lcm : Byte
  gamma : Byte
  /-- `cfg.vrh_vdv`: absent or the pair (vrh, vdv). -/
  vrhVdv : Option (Byte × Byte)
  inversionOn : Bool
  bus : Bus
  resetGpio : Bool
  blPwm : Option PwmHandle
  blGpio : Option GpioHandle
deriving DecidableEq, Repr

/-- The block constants `K` (R59): durations in an open unit, argument bytes, the fill sizes. -/
structure Consts where
  tMonoRstPulse : Nat
  tMonoRstSettle : Nat
  tColorRstLow : Nat
  tColorRstSettle : Nat
  tSlpout : Nat
  monoSoftResetCmd : List Byte
  vcomhSsd1306 : Byte
  vcomhSsd1309 : Byte
  chargePumpArg : Byte
  dcdcArg : Byte
  irefArg : Byte
  defaultContrast : Byte
  dgmenDefault : Byte
  frctrl2Default : Byte
  vdvvrhenEnable : Byte
  fillChunkRows : Nat
  fillBufBytes : Nat
deriving DecidableEq, Repr

/-- The MONO half of the opcode record `OP` (R160), a model argument (D3). -/
structure MonoOps where
  lowcol : Byte
  highcol : Byte
  memmode : Byte
  modeHorizontal : Byte
  coladdr : Byte
  pageaddr : Byte
  startline : Byte
  contrast : Byte
  chargepump : Byte
  segremap : Byte
  normal : Byte
  inverse : Byte
  mux : Byte
  dcdc : Byte
  iref : Byte
  dispoff : Byte
  dispon : Byte
  pagestart : Byte
  comscan : Byte
  dispoffset : Byte
  clockdiv : Byte
  precharge : Byte
  compins : Byte
  vcomh : Byte
deriving DecidableEq, Repr

/-- The COLOR half of the opcode record `OP` (R161), a model argument (D3). -/
structure ColorOps where
  swreset : Byte
  slpin : Byte
  slpout : Byte
  invoff : Byte
  invon : Byte
  gamset : Byte
  dispoff : Byte
  dispon : Byte
  caset : Byte
  raset : Byte
  ramwr : Byte
  madctl : Byte
  colmod : Byte
  ramctrl : Byte
  rgbctrl : Byte
  porctrl : Byte
  gctrl : Byte
  dgmen : Byte
  vcoms : Byte
  lcmctrl : Byte
  vdvvrhen : Byte
  vrhs : Byte
  vdvs : Byte
  frctrl2 : Byte
  pwctrl1 : Byte
  cmd2en : Byte
  pvgamctrl : Byte
  nvgamctrl : Byte
deriving DecidableEq, Repr

/-- All a board is built with: both units' configurations, the constants and the opcode record (R10). -/
structure BoardCfg where
  mono : MonoCfg
  color : ColorCfg
  k : Consts
  mop : MonoOps
  cop : ColorOps
deriving DecidableEq, Repr

/-- FREE VALUE (93 part 1, "any value"): what register number `idx` of a panel's sink holds after the
`gen`-th event whose effect on the panel the spec does not give. Opaque: nothing can evaluate it. -/
opaque Config.freePanelRegister (gen idx : Nat) : Nat

end Sys2Proof
end

