-- ==== Sys2Proof/Syntax.lean ====
section
/-!
DEFINITION. The instructions: one constructor of `Instr` per row of spec/opcode_table.json, in the table's
order, and the requests they are decoded from. The host rows carry the operands of 30_encoding.md R152,
the wire rows the fields of 41_mono_commands.md and 43_color_commands.md.
-/

namespace Sys2Proof

/-- The two unit kinds an instance can be (R20, R155). BLPWR is part of each. -/
inductive UnitKind where
  | mono
  | color
deriving DecidableEq, Repr

/-- The pixel formats used as operands (R63, R153). -/
inductive Format where
  | monoNormal
  | monoInverted
  | rgb565
  | rgb888
deriving DecidableEq, Repr

/-- The orientations used as operands (R63, R153); only `normal` is ever accepted. -/
inductive Orientation where
  | normal
  | rotated90
  | rotated180
  | rotated270
deriving DecidableEq, Repr

/-- `BufferDescriptor` (R60): the rectangle, its pitch in pixels, and the declared size in bytes. -/
structure BufferDescriptor where
  width : Half
  height : Half
  pitch : Half
  bufSize : Word32
deriving DecidableEq, Repr

/-- One instruction. A host row is one operation of the Display Driver Contract on one unit instance
(R150 to R154); a wire row is one command, or one data payload, that the block sends to its panel. -/
inductive Instr where
  -- host rows, HOST op 0x01 to 0x0C, one per unit
  | monoInit
  | colorInit
  | monoWrite (x y : Half) (desc : BufferDescriptor) (pix : List Byte)
  | colorWrite (x y : Half) (desc : BufferDescriptor) (pix : List Byte)
  | monoSetContrast (v : Byte)
  | colorSetContrast (v : Byte)
  | monoSetPixelFormat (f : Format)
  | colorSetPixelFormat (f : Format)
  | monoGetCapabilities
  | colorGetCapabilities
  | monoBlankingOn
  | colorBlankingOn
  | monoBlankingOff
  | colorBlankingOff
  | monoSetBrightness (b : Byte)
  | colorSetBrightness (b : Byte)
  | monoSetOrientation (o : Orientation)
  | colorSetOrientation (o : Orientation)
  | monoSuspend
  | colorSuspend
  | monoResume
  | colorResume
  | monoFill (color : List Byte)
  | colorFill (color : List Byte)
  -- MONO wire rows (R260 to R284)
  | monoLowcol (l : BitVec 4)
  | monoHighcol (h : BitVec 4)
  | monoMemmode (a : Byte)
  | monoColaddr (a b : Byte)
  | monoPageaddr (a b : Byte)
  | monoStartline (line : BitVec 6)
  | monoContrast (a : Byte)
  | monoChargepump (a : Byte)
  | monoSegremap (r : Bool)
  | monoNormal
  | monoInverse
  | monoMux (a : Byte)
  | monoDcdc (a : Byte)
  | monoIref (a : Byte)
  | monoDispoff
  | monoDispon
  | monoPagestart (p : BitVec 3)
  | monoComscan (f : Bool)
  | monoDispoffset (a : Byte)
  | monoClockdiv (a : Byte)
  | monoPrecharge (a : Byte)
  | monoCompins (a : Byte)
  | monoVcomh (a : Byte)
  | monoSoftReset
  | monoData (pixels : List Byte)
  -- COLOR wire rows (R350 to R378)
  | colorSwreset
  | colorSlpin
  | colorSlpout
  | colorInvoff
  | colorInvon
  | colorGamset (a : Byte)
  | colorDispoff
  | colorDispon
  | colorCaset (xs xe : Half)
  | colorRaset (ys ye : Half)
  | colorRamwr
  | colorMadctl (a : Byte)
  | colorColmod (a : Byte)
  | colorRamctrl (params : List Byte)
  | colorRgbctrl (params : List Byte)
  | colorPorctrl (params : List Byte)
  | colorGctrl (a : Byte)
  | colorDgmen (a : Byte)
  | colorVcoms (a : Byte)
  | colorLcmctrl (a : Byte)
  | colorVdvvrhen (a : Byte)
  | colorVrhs (a : Byte)
  | colorVdvs (a : Byte)
  | colorFrctrl2 (a : Byte)
  | colorPwctrl1 (params : List Byte)
  | colorCmd2en (params : List Byte)
  | colorPvgamctrl (params : List Byte)
  | colorNvgamctrl (params : List Byte)
  | colorData (pixels : List Byte)
deriving DecidableEq, Repr

/-- Where a request comes in. DESIGN CHOICE (log 3): the spec keeps the host space and the wire space
apart (R150) and gives the wire space of each unit a command and a data flag (R156, R158); the port says
which of them the bytes of a request belong to. `param` carries MONO SOFT_RESET, whose bytes are an open
parameter and are decoded by no table (R157, R283). -/
inductive Port where
  | host (u : UnitKind)
  | cmd (u : UnitKind)
  | data (u : UnitKind)
  | param
deriving DecidableEq, Repr

/-- One request: a HOST record (R151) or one wire command, as bytes on its port. -/
structure Request where
  port : Port
  bytes : List Byte
deriving DecidableEq, Repr

/-- Why the decoder refuses a request, by name (R153, R154, R509 (c)). All are safe: the block never
sees such a request. -/
inductive DecodeError where
  /-- HOST op 0x00 or 0x0D .. 0xFF (R154). -/
  | undefinedHostOp (op : Byte)
  /-- A Format code of 4 or more (R153). -/
  | undefinedFormat (code : Byte)
  /-- An Orientation code of 4 or more (R153). -/
  | undefinedOrientation (code : Byte)
  /-- A first byte that is no command of R160 or R161 (R167). -/
  | undefinedCommand (op : Byte)
  /-- Too few or too many bytes for the operation or command. -/
  | badLength
deriving DecidableEq, Repr

end Sys2Proof
end

