-- ==== Sys2Proof/WellFormed.lean ====
section
/-!
DEFINITION. Which terms of `Instr` the encoding spaces can spell on a panel of a given chip. The operand
widths (nibbles, 3-bit pages, enumerations) are in the types; what is left is checked here.
-/

namespace Sys2Proof

/-- A term the encoding spaces can spell for a MONO panel of this chip:
* a data payload has at least one byte, as every transfer has (R104);
* the byte 0xAD is DCDC on an SH1106 and IREF elsewhere (R272, R273 and the table's note on both rows). -/
def Instr.wellFormed (chip : Chip) : Instr → Bool
  | .monoData pixels | .colorData pixels => !pixels.isEmpty
  | .monoDcdc _ => chip == .sh1106
  | .monoIref _ => chip != .sh1106
  | .monoInit | .colorInit | .monoWrite .. | .colorWrite .. | .monoSetContrast _ | .colorSetContrast _
  | .monoSetPixelFormat _ | .colorSetPixelFormat _ | .monoGetCapabilities | .colorGetCapabilities
  | .monoBlankingOn | .colorBlankingOn | .monoBlankingOff | .colorBlankingOff
  | .monoSetBrightness _ | .colorSetBrightness _ | .monoSetOrientation _ | .colorSetOrientation _
  | .monoSuspend | .colorSuspend | .monoResume | .colorResume | .monoFill _ | .colorFill _
  | .monoLowcol _ | .monoHighcol _ | .monoMemmode _ | .monoColaddr .. | .monoPageaddr ..
  | .monoStartline _ | .monoContrast _ | .monoChargepump _ | .monoSegremap _ | .monoNormal | .monoInverse
  | .monoMux _ | .monoDispoff | .monoDispon | .monoPagestart _ | .monoComscan _ | .monoDispoffset _
  | .monoClockdiv _ | .monoPrecharge _ | .monoCompins _ | .monoVcomh _ | .monoSoftReset
  | .colorSwreset | .colorSlpin | .colorSlpout | .colorInvoff | .colorInvon | .colorGamset _
  | .colorDispoff | .colorDispon | .colorCaset .. | .colorRaset .. | .colorRamwr | .colorMadctl _
  | .colorColmod _ | .colorRamctrl _ | .colorRgbctrl _ | .colorPorctrl _ | .colorGctrl _ | .colorDgmen _
  | .colorVcoms _ | .colorLcmctrl _ | .colorVdvvrhen _ | .colorVrhs _ | .colorVdvs _ | .colorFrctrl2 _
  | .colorPwctrl1 _ | .colorCmd2en _ | .colorPvgamctrl _ | .colorNvgamctrl _ => true

end Sys2Proof
end

