-- ==== Sys2Proof/Decode.lean ====
section
/-!
DEFINITION. The decoder and, after it, the encoder (30_encoding.md), with the byte-order and bit-field
helpers both use and the two functions the host asks the decoder through (`decodeTableWord`,
`tableRequest`). Decoding is total on any bytes and refuses by name (R153, R154, R167).
-/

namespace Sys2Proof

/-! ## Byte helpers (R13) -/

/-- `trunc8(v) = v mod 256`, on the integer value, so that `trunc8(-1) = 0xFF` (R13). -/
def trunc8 (v : Int) : Byte := BitVec.ofInt 8 v

/-- `trunc16(v) = v mod 65536`, on the integer value (R13). -/
def trunc16 (v : Int) : Half := BitVec.ofInt 16 v

/-- `hi8(v)`: bits 15..8 (R13). -/
def hi8 (v : Half) : Byte := v.extractLsb' 8 8

/-- `lo8(v)`: bits 7..0 (R13). -/
def lo8 (v : Half) : Byte := v.extractLsb' 0 8

/-- A 16-bit value as two bytes, most significant first (R109). -/
def be16 (v : Half) : List Byte := [hi8 v, lo8 v]

/-- Two bytes, most significant first, as a 16-bit value. -/
def ofBe16 (h l : Byte) : Half := h ++ l

/-- A 32-bit value as four bytes, most significant first. -/
def be32 (v : Word32) : List Byte :=
  [v.extractLsb' 24 8, v.extractLsb' 16 8, v.extractLsb' 8 8, v.extractLsb' 0 8]

/-- Four bytes, most significant first, as a 32-bit value. -/
def ofBe32 (a b c d : Byte) : Word32 := a ++ b ++ c ++ d

/-! ## Formats -/

/-- `initial_pf(cfg)` (R40). -/
def initialPf (cfg : MonoCfg) : Format :=
  if cfg.colorInversion then .monoInverted else .monoNormal

/-- `PS`, the bytes of a pixel of a compiled format (R56). -/
def ColorFormat.bytes : ColorFormat → Nat
  | .rgb565 => 2
  | .rgb888 => 3

/-- A compiled format as an operand value (R63). -/
def ColorFormat.toFormat : ColorFormat → Format
  | .rgb565 => .rgb565
  | .rgb888 => .rgb888

/-! ## The opcode record `OP` with the spec's values -/

/-- The MONO opcode record with the values of R160. PRESUMED (log 6): all but PAGESTART are the spec's
general-knowledge values; the machine reads the record from its state, never from here. -/
def MonoOps.spec : MonoOps :=
  { lowcol := 0x00, highcol := 0x10, memmode := 0x20, modeHorizontal := 0x00, coladdr := 0x21,
    pageaddr := 0x22, startline := 0x40, contrast := 0x81, chargepump := 0x8D, segremap := 0xA0,
    normal := 0xA6, inverse := 0xA7, mux := 0xA8, dcdc := 0xAD, iref := 0xAD,
    dispoff := 0xAE, dispon := 0xAF, pagestart := 0xB0, comscan := 0xC0, dispoffset := 0xD3,
    clockdiv := 0xD5, precharge := 0xD9, compins := 0xDA, vcomh := 0xDB }

/-- The COLOR opcode record with the values of R161. PRESUMED (log 6), as for MONO. -/
def ColorOps.spec : ColorOps :=
  { swreset := 0x01, slpin := 0x10, slpout := 0x11, invoff := 0x20, invon := 0x21,
    gamset := 0x26, dispoff := 0x28, dispon := 0x29, caset := 0x2A, raset := 0x2B,
    ramwr := 0x2C, madctl := 0x36, colmod := 0x3A, ramctrl := 0xB0, rgbctrl := 0xB1,
    porctrl := 0xB2, gctrl := 0xB7, dgmen := 0xBA, vcoms := 0xBB, lcmctrl := 0xC0,
    vdvvrhen := 0xC2, vrhs := 0xC3, vdvs := 0xC4, frctrl2 := 0xC6, pwctrl1 := 0xD0,
    cmd2en := 0xDF, pvgamctrl := 0xE0, nvgamctrl := 0xE1 }

/-! ## M1F bytes: an opcode with a field in its low bits (R156, R163, R165) -/

/-- `OP.LOWCOL | l`, the low nibble of a column (R260). -/
def lowcolByte (op : MonoOps) (l : BitVec 4) : Byte := op.lowcol ||| l.setWidth 8

/-- `OP.HIGHCOL | h`, the high nibble of a column (R261). -/
def highcolByte (op : MonoOps) (h : BitVec 4) : Byte := op.highcol ||| h.setWidth 8

/-- `OP.STARTLINE | s` (R265). -/
def startlineByte (op : MonoOps) (s : BitVec 6) : Byte := op.startline ||| s.setWidth 8

/-- `OP.SEGREMAP | r` (R165, R268). -/
def segremapByte (op : MonoOps) (r : Bool) : Byte := op.segremap ||| (if r then 0x01 else 0x00)

/-- `OP.PAGESTART | p` (R276). -/
def pagestartByte (op : MonoOps) (p : BitVec 3) : Byte := op.pagestart ||| p.setWidth 8

/-- `OP.COMSCAN | (f << 3)` (R165, R277). -/
def comscanByte (op : MonoOps) (f : Bool) : Byte := op.comscan ||| (if f then 0x08 else 0x00)

/-! ## Host records (R151 to R154) -/

/-- Format codes (R153). -/
def Format.code : Format → Byte
  | .monoNormal => 0
  | .monoInverted => 1
  | .rgb565 => 2
  | .rgb888 => 3

/-- Orientation codes (R153). -/
def Orientation.code : Orientation → Byte
  | .normal => 0
  | .rotated90 => 1
  | .rotated180 => 2
  | .rotated270 => 3

/-- A Format code of 4 or more spells no value (R153). -/
def decodeFormat (c : Byte) : Except DecodeError Format :=
  if c = 0 then .ok .monoNormal
  else if c = 1 then .ok .monoInverted
  else if c = 2 then .ok .rgb565
  else if c = 3 then .ok .rgb888
  else .error (.undefinedFormat c)

/-- An Orientation code of 4 or more spells no value (R153). -/
def decodeOrientation (c : Byte) : Except DecodeError Orientation :=
  if c = 0 then .ok .normal
  else if c = 1 then .ok .rotated90
  else if c = 2 then .ok .rotated180
  else if c = 3 then .ok .rotated270
  else .error (.undefinedOrientation c)

/-- One of two answers by unit kind: R155, the unit kind selects which rule gives an op code its
meaning. -/
def byUnit {α : Type} (u : UnitKind) (m c : α) : α :=
  match u with
  | .mono => m
  | .color => c

/-- An operation without operands. -/
def nullary (i : Instr) : List Byte → Except DecodeError Instr
  | [] => .ok i
  | _ :: _ => .error .badLength

/-- An operation with one operand byte. -/
def unary (f : Byte → Except DecodeError Instr) : List Byte → Except DecodeError Instr
  | [a] => f a
  | _ => .error .badLength

/-- The operands of `write`: x, y, the descriptor's four fields, then the pixel bytes to the record's end
(R151, R152). DESIGN CHOICE (log 4): the spec gives the fields and their widths, not their layout; the
model lays them out in the rule's order, each most significant byte first. -/
def decodeWrite (u : UnitKind) : List Byte → Except DecodeError Instr
  | x1 :: x0 :: y1 :: y0 :: w1 :: w0 :: h1 :: h0 :: p1 :: p0 :: s3 :: s2 :: s1 :: s0 :: pix =>
    let desc : BufferDescriptor :=
      { width := ofBe16 w1 w0, height := ofBe16 h1 h0, pitch := ofBe16 p1 p0, bufSize := ofBe32 s3 s2 s1 s0 }
    .ok (byUnit u (.monoWrite (ofBe16 x1 x0) (ofBe16 y1 y0) desc pix)
      (.colorWrite (ofBe16 x1 x0) (ofBe16 y1 y0) desc pix))
  | _ => .error .badLength

/-- The operation an op code selects on a unit (R152); the other codes spell none (R154). -/
def decodeHostOp (u : UnitKind) (op : Byte) (args : List Byte) : Except DecodeError Instr :=
  if op = 0x01 then nullary (byUnit u .monoInit .colorInit) args
  else if op = 0x02 then decodeWrite u args
  else if op = 0x03 then unary (fun v => .ok (byUnit u (.monoSetContrast v) (.colorSetContrast v))) args
  else if op = 0x04 then
    unary (fun c => (decodeFormat c).map fun f =>
      byUnit u (.monoSetPixelFormat f) (.colorSetPixelFormat f)) args
  else if op = 0x05 then nullary (byUnit u .monoGetCapabilities .colorGetCapabilities) args
  else if op = 0x06 then nullary (byUnit u .monoBlankingOn .colorBlankingOn) args
  else if op = 0x07 then nullary (byUnit u .monoBlankingOff .colorBlankingOff) args
  else if op = 0x08 then unary (fun b => .ok (byUnit u (.monoSetBrightness b) (.colorSetBrightness b))) args
  else if op = 0x09 then
    unary (fun c => (decodeOrientation c).map fun o =>
      byUnit u (.monoSetOrientation o) (.colorSetOrientation o)) args
  else if op = 0x0A then nullary (byUnit u .monoSuspend .colorSuspend) args
  else if op = 0x0B then nullary (byUnit u .monoResume .colorResume) args
  else if op = 0x0C then .ok (byUnit u (.monoFill args) (.colorFill args))
  else .error (.undefinedHostOp op)

/-- A HOST record: the op code, then its operands. -/
def decodeHost (u : UnitKind) : List Byte → Except DecodeError Instr
  | [] => .error .badLength
  | op :: args => decodeHostOp u op args

/-! ## MONO wire commands (R156, R157, R160) -/

/-- A command with one argument byte (format M2). -/
def takeArg (f : Byte → Instr) : List Byte → Option (Instr × List Byte)
  | a :: rest => some (f a, rest)
  | [] => none

/-- A command with two argument bytes (format M3). -/
def takeArgs (f : Byte → Byte → Instr) : List Byte → Option (Instr × List Byte)
  | a :: b :: rest => some (f a b, rest)
  | _ => none

/-- The byte 0xAD and its argument: DCDC on an SH1106, IREF elsewhere (R272, R273; log 7). -/
def dcdcOrIref (chip : Chip) (a : Byte) : Instr :=
  match chip with
  | .sh1106 => .monoDcdc a
  | .ssd1306 | .ssd1309 => .monoIref a

/-- The command a first byte selects, with its arguments taken from the bytes after it, and the bytes left
(the rows' match and mask in spec/opcode_table.json; lengths R157). -/
def decodeMonoByte (chip : Chip) (b : Byte) (rest : List Byte) : Option (Instr × List Byte) :=
  if b &&& 0xF0 = 0x00 then some (.monoLowcol (b.setWidth 4), rest)
  else if b &&& 0xF0 = 0x10 then some (.monoHighcol (b.setWidth 4), rest)
  else if b &&& 0xC0 = 0x40 then some (.monoStartline (b.setWidth 6), rest)
  else if b &&& 0xFE = 0xA0 then some (.monoSegremap (b.getLsbD 0), rest)
  else if b &&& 0xF8 = 0xB0 then some (.monoPagestart (b.setWidth 3), rest)
  else if b &&& 0xF7 = 0xC0 then some (.monoComscan (b.getLsbD 3), rest)
  else if b = 0x21 then takeArgs .monoColaddr rest
  else if b = 0x22 then takeArgs .monoPageaddr rest
  else if b = 0x20 then takeArg .monoMemmode rest
  else if b = 0x81 then takeArg .monoContrast rest
  else if b = 0x8D then takeArg .monoChargepump rest
  else if b = 0xA8 then takeArg .monoMux rest
  else if b = 0xD3 then takeArg .monoDispoffset rest
  else if b = 0xD5 then takeArg .monoClockdiv rest
  else if b = 0xD9 then takeArg .monoPrecharge rest
  else if b = 0xDA then takeArg .monoCompins rest
  else if b = 0xDB then takeArg .monoVcomh rest
  else if b = 0xAD then takeArg (dcdcOrIref chip) rest
  else if b = 0xA6 then some (.monoNormal, rest)
  else if b = 0xA7 then some (.monoInverse, rest)
  else if b = 0xAE then some (.monoDispoff, rest)
  else if b = 0xAF then some (.monoDispon, rest)
  else none

/-- One command off the front of a MONO command stream. -/
def decodeMonoCmd (chip : Chip) : List Byte → Option (Instr × List Byte)
  | [] => none
  | b :: rest => decodeMonoByte chip b rest

/-- The length of a MONO command by its first byte (R157). -/
def monoCmdLen (b : Byte) : Nat :=
  if b = 0x21 ∨ b = 0x22 then 3
  else if b = 0x20 ∨ b = 0x81 ∨ b = 0x8D ∨ b = 0xA8 ∨ b = 0xAD ∨ b = 0xD3 ∨ b = 0xD5 ∨ b = 0xD9 ∨ b = 0xDA
      ∨ b = 0xDB then 2
  else 1

/-! ## COLOR wire commands (R158, R161) -/

/-- The four parameter bytes of a window command, as two bounds, each most significant byte first
(R109, R164). -/
def takeBounds (f : Half → Half → Instr) : List Byte → Except DecodeError Instr
  | [a1, a0, b1, b0] => .ok (f (ofBe16 a1 a0) (ofBe16 b1 b0))
  | _ => .error .badLength

/-- A command byte with its parameter string (format C, R158). -/
def decodeColorByte (op : Byte) (ps : List Byte) : Except DecodeError Instr :=
  if op = 0x01 then nullary .colorSwreset ps
  else if op = 0x10 then nullary .colorSlpin ps
  else if op = 0x11 then nullary .colorSlpout ps
  else if op = 0x20 then nullary .colorInvoff ps
  else if op = 0x21 then nullary .colorInvon ps
  else if op = 0x26 then unary (fun a => .ok (.colorGamset a)) ps
  else if op = 0x28 then nullary .colorDispoff ps
  else if op = 0x29 then nullary .colorDispon ps
  else if op = 0x2A then takeBounds .colorCaset ps
  else if op = 0x2B then takeBounds .colorRaset ps
  else if op = 0x2C then nullary .colorRamwr ps
  else if op = 0x36 then unary (fun a => .ok (.colorMadctl a)) ps
  else if op = 0x3A then unary (fun a => .ok (.colorColmod a)) ps
  else if op = 0xB0 then .ok (.colorRamctrl ps)
  else if op = 0xB1 then .ok (.colorRgbctrl ps)
  else if op = 0xB2 then .ok (.colorPorctrl ps)
  else if op = 0xB7 then unary (fun a => .ok (.colorGctrl a)) ps
  else if op = 0xBA then unary (fun a => .ok (.colorDgmen a)) ps
  else if op = 0xBB then unary (fun a => .ok (.colorVcoms a)) ps
  else if op = 0xC0 then unary (fun a => .ok (.colorLcmctrl a)) ps
  else if op = 0xC2 then unary (fun a => .ok (.colorVdvvrhen a)) ps
  else if op = 0xC3 then unary (fun a => .ok (.colorVrhs a)) ps
  else if op = 0xC4 then unary (fun a => .ok (.colorVdvs a)) ps
  else if op = 0xC6 then unary (fun a => .ok (.colorFrctrl2 a)) ps
  else if op = 0xD0 then .ok (.colorPwctrl1 ps)
  else if op = 0xDF then .ok (.colorCmd2en ps)
  else if op = 0xE0 then .ok (.colorPvgamctrl ps)
  else if op = 0xE1 then .ok (.colorNvgamctrl ps)
  else .error (.undefinedCommand op)

/-- A COLOR wire command: the command byte, then its parameters. -/
def decodeColorCmd : List Byte → Except DecodeError Instr
  | [] => .error .badLength
  | op :: ps => decodeColorByte op ps

/-! ## The decoder -/

/-- A data payload (R284, R378): at least one byte, as every transfer has (R104). -/
def decodeData (u : UnitKind) : List Byte → Except DecodeError Instr
  | [] => .error .badLength
  | b :: bs => .ok (byUnit u (.monoData (b :: bs)) (.colorData (b :: bs)))

/-- A request that is exactly one MONO command: nothing may be left over. -/
def decodeMonoWhole (chip : Chip) : List Byte → Except DecodeError Instr
  | [] => .error .badLength
  | b :: rest =>
    match decodeMonoByte chip b rest with
    | some (i, []) => .ok i
    | some (_, _ :: _) => .error .badLength
    | none => .error (if monoCmdLen b = 1 then .undefinedCommand b else .badLength)

/-- The instruction a request stands for, on a board whose MONO panel has this chip. Total on any bytes. -/
def decode (chip : Chip) (r : Request) : Except DecodeError Instr :=
  match r.port with
  | .host u => decodeHost u r.bytes
  | .cmd .mono => decodeMonoWhole chip r.bytes
  | .cmd .color => decodeColorCmd r.bytes
  | .data u => decodeData u r.bytes
  | .param => nullary .monoSoftReset r.bytes

/-! ## The encoder -/

/-- The operand bytes of `write` in the layout of `decodeWrite`. -/
def writeBytes (x y : Half) (d : BufferDescriptor) (pix : List Byte) : List Byte :=
  be16 x ++ be16 y ++ be16 d.width ++ be16 d.height ++ be16 d.pitch ++ be32 d.bufSize ++ pix

/-- A HOST record of R151 for a unit. -/
def hostRequest (u : UnitKind) (op : Byte) (args : List Byte) : Request := ⟨.host u, op :: args⟩

/-- A MONO wire command as a request. -/
def monoRequest (bytes : List Byte) : Request := ⟨.cmd .mono, bytes⟩

/-- A COLOR wire command as a request: the command byte, then its parameters. -/
def colorRequest (op : Byte) (ps : List Byte) : Request := ⟨.cmd .color, op :: ps⟩

/-- The request an instruction is spelled by, with the opcode values of R160 and R161. -/
def encode : Instr → Request
  | .monoInit => hostRequest .mono 0x01 []
  | .colorInit => hostRequest .color 0x01 []
  | .monoWrite x y d pix => hostRequest .mono 0x02 (writeBytes x y d pix)
  | .colorWrite x y d pix => hostRequest .color 0x02 (writeBytes x y d pix)
  | .monoSetContrast v => hostRequest .mono 0x03 [v]
  | .colorSetContrast v => hostRequest .color 0x03 [v]
  | .monoSetPixelFormat f => hostRequest .mono 0x04 [f.code]
  | .colorSetPixelFormat f => hostRequest .color 0x04 [f.code]
  | .monoGetCapabilities => hostRequest .mono 0x05 []
  | .colorGetCapabilities => hostRequest .color 0x05 []
  | .monoBlankingOn => hostRequest .mono 0x06 []
  | .colorBlankingOn => hostRequest .color 0x06 []
  | .monoBlankingOff => hostRequest .mono 0x07 []
  | .colorBlankingOff => hostRequest .color 0x07 []
  | .monoSetBrightness v => hostRequest .mono 0x08 [v]
  | .colorSetBrightness v => hostRequest .color 0x08 [v]
  | .monoSetOrientation o => hostRequest .mono 0x09 [o.code]
  | .colorSetOrientation o => hostRequest .color 0x09 [o.code]
  | .monoSuspend => hostRequest .mono 0x0A []
  | .colorSuspend => hostRequest .color 0x0A []
  | .monoResume => hostRequest .mono 0x0B []
  | .colorResume => hostRequest .color 0x0B []
  | .monoFill c => hostRequest .mono 0x0C c
  | .colorFill c => hostRequest .color 0x0C c
  | .monoLowcol l => monoRequest [lowcolByte .spec l]
  | .monoHighcol h => monoRequest [highcolByte .spec h]
  | .monoMemmode a => monoRequest [MonoOps.spec.memmode, a]
  | .monoColaddr a b => monoRequest [MonoOps.spec.coladdr, a, b]
  | .monoPageaddr a b => monoRequest [MonoOps.spec.pageaddr, a, b]
  | .monoStartline s => monoRequest [startlineByte .spec s]
  | .monoContrast a => monoRequest [MonoOps.spec.contrast, a]
  | .monoChargepump a => monoRequest [MonoOps.spec.chargepump, a]
  | .monoSegremap r => monoRequest [segremapByte .spec r]
  | .monoNormal => monoRequest [MonoOps.spec.normal]
  | .monoInverse => monoRequest [MonoOps.spec.inverse]
  | .monoMux a => monoRequest [MonoOps.spec.mux, a]
  | .monoDcdc a => monoRequest [MonoOps.spec.dcdc, a]
  | .monoIref a => monoRequest [MonoOps.spec.iref, a]
  | .monoDispoff => monoRequest [MonoOps.spec.dispoff]
  | .monoDispon => monoRequest [MonoOps.spec.dispon]
  | .monoPagestart p => monoRequest [pagestartByte .spec p]
  | .monoComscan f => monoRequest [comscanByte .spec f]
  | .monoDispoffset a => monoRequest [MonoOps.spec.dispoffset, a]
  | .monoClockdiv a => monoRequest [MonoOps.spec.clockdiv, a]
  | .monoPrecharge a => monoRequest [MonoOps.spec.precharge, a]
  | .monoCompins a => monoRequest [MonoOps.spec.compins, a]
  | .monoVcomh a => monoRequest [MonoOps.spec.vcomh, a]
  | .monoSoftReset => ⟨.param, []⟩
  | .monoData px => ⟨.data .mono, px⟩
  | .colorSwreset => colorRequest ColorOps.spec.swreset []
  | .colorSlpin => colorRequest ColorOps.spec.slpin []
  | .colorSlpout => colorRequest ColorOps.spec.slpout []
  | .colorInvoff => colorRequest ColorOps.spec.invoff []
  | .colorInvon => colorRequest ColorOps.spec.invon []
  | .colorGamset a => colorRequest ColorOps.spec.gamset [a]
  | .colorDispoff => colorRequest ColorOps.spec.dispoff []
  | .colorDispon => colorRequest ColorOps.spec.dispon []
  | .colorCaset a b => colorRequest ColorOps.spec.caset (be16 a ++ be16 b)
  | .colorRaset a b => colorRequest ColorOps.spec.raset (be16 a ++ be16 b)
  | .colorRamwr => colorRequest ColorOps.spec.ramwr []
  | .colorMadctl a => colorRequest ColorOps.spec.madctl [a]
  | .colorColmod a => colorRequest ColorOps.spec.colmod [a]
  | .colorRamctrl ps => colorRequest ColorOps.spec.ramctrl ps
  | .colorRgbctrl ps => colorRequest ColorOps.spec.rgbctrl ps
  | .colorPorctrl ps => colorRequest ColorOps.spec.porctrl ps
  | .colorGctrl a => colorRequest ColorOps.spec.gctrl [a]
  | .colorDgmen a => colorRequest ColorOps.spec.dgmen [a]
  | .colorVcoms a => colorRequest ColorOps.spec.vcoms [a]
  | .colorLcmctrl a => colorRequest ColorOps.spec.lcmctrl [a]
  | .colorVdvvrhen a => colorRequest ColorOps.spec.vdvvrhen [a]
  | .colorVrhs a => colorRequest ColorOps.spec.vrhs [a]
  | .colorVdvs a => colorRequest ColorOps.spec.vdvs [a]
  | .colorFrctrl2 a => colorRequest ColorOps.spec.frctrl2 [a]
  | .colorPwctrl1 ps => colorRequest ColorOps.spec.pwctrl1 ps
  | .colorCmd2en ps => colorRequest ColorOps.spec.cmd2en ps
  | .colorPvgamctrl ps => colorRequest ColorOps.spec.pvgamctrl ps
  | .colorNvgamctrl ps => colorRequest ColorOps.spec.nvgamctrl ps
  | .colorData px => ⟨.data .color, px⟩

/-! ## The table's words, for the host

A word of spec/opcode_table.json is one byte, and several rows share a byte: every host code belongs to
both units, and the wire spaces of the two panels overlap. `tablePort` says which of them a bare byte is
read in (log 8). -/

/-- The MONO wire rows' words with every field bit zero. -/
def monoRowWords : List Nat :=
  [0x00, 0x10, 0x20, 0x21, 0x22, 0x40, 0x81, 0x8D, 0xA0, 0xA6, 0xA7, 0xA8, 0xAD, 0xAE,
    0xAF, 0xB0, 0xC0, 0xD3, 0xD5, 0xD9, 0xDA, 0xDB]

/-- The COLOR wire rows' words. -/
def colorRowWords : List Nat :=
  [0x01, 0x10, 0x11, 0x20, 0x21, 0x26, 0x28, 0x29, 0x2A, 0x2B, 0x2C, 0x36, 0x3A, 0xB0,
    0xB1, 0xB2, 0xB7, 0xBA, 0xBB, 0xC0, 0xC2, 0xC3, 0xC4, 0xC6, 0xD0, 0xDF, 0xE0, 0xE1]

/-- The port a bare byte of the table is read on: the MONO host space for the codes 0x01 to 0x0C, the MONO
wire space for a MONO row's word with zero fields, the COLOR wire space for another COLOR row's word, and
the MONO wire space for what is left. DESIGN CHOICE (log 8). -/
def tablePort (b : Nat) : Port :=
  if 1 ≤ b ∧ b ≤ 12 then .host .mono
  else if monoRowWords.contains b then .cmd .mono
  else if colorRowWords.contains b then .cmd .color
  else .cmd .mono

/-- How many bytes a request needs when its byte strings are empty. -/
def minLength (port : Port) (b : Byte) : Nat :=
  match port with
  | .host _ =>
    if b = 0x02 then 15
    else if b = 0x03 ∨ b = 0x04 ∨ b = 0x08 ∨ b = 0x09 then 2
    else 1
  | .cmd .mono => monoCmdLen b
  | .cmd .color =>
    if b = 0x2A ∨ b = 0x2B then 5
    else if [0x26, 0x36, 0x3A, 0xB7, 0xBA, 0xBB, 0xC0, 0xC2, 0xC3, 0xC4, 0xC6].contains b.toNat then 2
    else 1
  | .data _ => 1
  | .param => 0

/-- The bytes of a table word, the first at bits 7..0. -/
def wordBytes (nbits w : Nat) : List Byte :=
  (List.range (nbits / 8)).map fun n => BitVec.ofNat 8 (w / 2 ^ (8 * n))

/-- The request for a table word: its bytes, then operand bytes of zeros up to the request's length. -/
def tableRequest (nbits w : Nat) : Request :=
  match wordBytes nbits w with
  | [] => ⟨.cmd .mono, []⟩
  | b :: rest =>
    let port := tablePort b.toNat
    ⟨port, (b :: rest) ++ List.replicate (minLength port b - (rest.length + 1)) 0⟩

/-- The chip a bare table word is read for: the one the model is reset with (0xAD is IREF; log 7). -/
def tableChip : Chip := .ssd1306

/-- The instruction the decoder reads from a table word, or none where it refuses. -/
def decodeTableWord (nbits w : Nat) : Option Instr :=
  match decode tableChip (tableRequest nbits w) with
  | .ok i => some i
  | .error _ => none

end Sys2Proof
end

