-- ==== Sys2Proof/Machine/State.lean ====
section
/-!
DEFINITION. The state of the machine (10_state.md): the two unit instances with their registers, the draws
their environment will give, and the reference sinks of their panels; what the instances were built with;
the host's calls not yet taken and the answer to the last one. All of it is plain data.
-/

namespace Sys2Proof.Machine

/-! ## Values of the registers -/

/-- `phase`, the lifecycle register (R36). -/
inductive Phase where
  | uninit
  | failed
  | ready
deriving DecidableEq, Repr

/-- A logical line level (R15, R406). -/
inductive Level where
  | asserted
  | deasserted
deriving DecidableEq, Repr

/-- The GPIO lines the block drives (R15). -/
inductive Line where
  | reset
  | supply
  | backlight
deriving DecidableEq, Repr

/-- The is_command flag of a transfer (R15, R104). -/
inductive Kind where
  | cmd
  | data
deriving DecidableEq, Repr

/-- The handles whose readiness the block asks for (R409). -/
inductive Handle where
  | bus
  | reset
  | supply
  | backlight
  | pwm
deriving DecidableEq, Repr

/-- An action of the sequencer (R15). -/
inductive Act where
  | xfer (f : Kind) (s : List Byte)
  | gpio (line : Line) (lvl : Level)
  | pwm (period duty : Nat)
  | delay (t : Nat)
deriving DecidableEq, Repr

/-- One entry of a trace: an action and its outcome. Only a transfer's outcome can be Err (`ok` false),
written `!ERR` in the spec's listings (R104, R169, R505). -/
structure Entry where
  act : Act
  ok : Bool
deriving DecidableEq, Repr

/-- The result of a host operation (R35, R500). -/
inductive Result where
  | ok
  | deviceNotReady
  | geometryViolation
  | busTransferFailure
  | unsupportedOperation
deriving DecidableEq, Repr

/-- The record `get_capabilities` returns (R62). -/
structure Capabilities where
  width : Half
  height : Half
  supportedFormats : List Format
  currentFormat : Format
  orientation : Orientation
deriving DecidableEq, Repr

/-- What an operation hands back to the host: a result, or the capabilities record (R35). -/
inductive Answer where
  | result (r : Result)
  | capabilities (c : Capabilities)
deriving DecidableEq, Repr

/-! ## Draws -/

/-- Answers the environment will give, oldest first: those of the list, then `rest` for ever. It is the
model's own field (log 1): every finite sequence of answers is some value of it. -/
structure Draw where
  script : List Bool
  rest : Bool
deriving DecidableEq, Repr

/-- The draws of one instance (R16, R104, R409, D38): the outcomes of its transfers and the readiness
answers of its handles, each its own sequence. -/
structure Env where
  xfer : Draw
  bus : Draw
  reset : Draw
  supply : Draw
  backlight : Draw
  pwm : Draw
deriving DecidableEq, Repr

/-! ## The registers of an instance -/

/-- The registers of one unit instance (10_state.md sections 2, 3 and 4; R66). The working registers
`apc`, `n`, `r`, `yf` and the pixel buffer in use hold a value only while an operation runs; `none` is the
spec's "holds no value". The shadows' `none` is the spec's own "none". -/
structure Regs where
  /-- R36. -/
  phase : Phase
  /-- R37. -/
  indeterminate : Bool
  /-- R38. -/
  dispOn : Option Bool
  /-- R39, COLOR only. -/
  asleep : Option Bool
  /-- R40. -/
  pf : Format
  /-- R41, COLOR only. -/
  backlightLevel : Option Byte
  /-- R42. -/
  resetLine : Option Level
  /-- R42, MONO only. -/
  supplyLine : Option Level
  /-- R42, COLOR only. -/
  blLine : Option Level
  /-- R42, COLOR only: (period, duty). -/
  pwmSetting : Option (Nat × Nat)
  /-- The action pointer (R33). -/
  apc : Option Nat
  /-- The page counter of the MONO quirk path (R32). -/
  n : Option Nat
  /-- The row counter of the COLOR strided path (R32). -/
  r : Option Nat
  /-- The row cursor of the fill helper (R32). -/
  yf : Option Nat
  /-- The pixel buffer in use (R100 (1), R101, R442): the caller's during `write`, the chunk buffer during
  `fill`. -/
  pix : Option (List Byte)
  /-- The trace: every action performed since reset, oldest first (R15, R20, R104). -/
  trace : List Entry
deriving DecidableEq, Repr

/-! ## Memory: the panels' pixel stores

The block has no memory of its own (R100); the pixel store of a panel's sink is the only one. It is a list
of (address, byte) pairs in one canonical form, addresses strictly rising. A byte not listed has NO VALUE
(`none`): the spec gives the store no contents until a data transfer writes it (log 10). -/

/-- A panel's pixel store. -/
abbrev Memory := List Host.Cell

/-- The canonical form: addresses strictly rising. No entry can equal what an unlisted byte reads as,
since that is no value. -/
def Memory.wf : Memory → Bool
  | [] => true
  | [_] => true
  | c :: d :: rest => decide (c.1 < d.1) && Memory.wf (d :: rest)

/-- The reference sink of a MONO panel (R125 to R127): test-only, not part of the block, read by no
operation of it (R64). -/
structure MonoPanel where
  cells : Memory
  mode : Nat
  cs : Nat
  ce : Nat
  ps : Nat
  pe : Nat
  col : Nat
  page : Nat
  /-- The last column the controller has, which the source does not give (R127); a model argument. -/
  lastCol : Nat
  /-- Whether a delay has followed the last reset or drive of the supply line, so that the panel's response
  to a transfer is one the spec gives (R605, R607); the model's own field (log 32). -/
  settled : Bool
  /-- How many events of unknown effect the panel has seen: what the free values are applied to (log 2). -/
  gen : Nat
deriving DecidableEq, Repr

/-- The reference sink of a COLOR panel (R128): test-only, as for MONO. -/
structure ColorPanel where
  cells : Memory
  xs : Nat
  xe : Nat
  ys : Nat
  ye : Nat
  col : Nat
  row : Nat
  /-- The command the next data transfer belongs to (R158), the model's own field. -/
  latch : Byte
  /-- The bytes of a pixel not yet complete (R128), the model's own field. -/
  pending : List Byte
  /-- Whether the interface format it was last told is the one the block was compiled for (93 part 1), the
  model's own field. -/
  formatOk : Bool
  /-- Whether a delay has followed the last reset or sleep-out (R605, R606); the model's own field (log 32). -/
  settled : Bool
  /-- As for MONO (log 2). -/
  gen : Nat
deriving DecidableEq, Repr

/-- A unit instance: its registers, its environment's draws, and its panel. -/
structure Inst (π : Type) where
  regs : Regs
  env : Env
  panel : π
deriving DecidableEq, Repr

/-! ## The state -/

/-- The state of a board with one MONO and one COLOR instance (R1, R30, R515; log 5). -/
structure State where
  /-- The block constants (R59). -/
  k : Consts
  /-- The opcode record of MONO (R160). -/
  mop : MonoOps
  /-- The opcode record of COLOR (R161). -/
  cop : ColorOps
  /-- The MONO configuration registers (R45 to R54). -/
  mcfg : MonoCfg
  /-- The COLOR configuration registers (R55 to R58). -/
  ccfg : ColorCfg
  mono : Inst MonoPanel
  color : Inst ColorPanel
  /-- The host's calls the block has not taken yet, oldest first (R168; log 3). -/
  calls : List Request
  /-- What the last operation handed back; none before the first (R35, R66). -/
  answer : Option Answer
deriving DecidableEq, Repr

/-! ## Reasons to stop -/

/-- The faults. -/
inductive Fault where
  /-- Raised by a read of the pixel buffer past its end and by a COLOR `write` whose declared buffer is
  shorter than its rectangle (R102, R310, R509 (a)): the host broke its buffer duty and the spec gives the
  call no meaning. Safe: nothing is claimed of what follows. -/
  | hostBufferOverrun
deriving DecidableEq, Repr

/-- The refusals. -/
inductive Refusal where
  /-- An instruction whose meaning is not written yet; raised by no arm of this model. Safe. -/
  | notModelled (mnemonic : String)
  /-- Raised by the step function when the decoder refuses a request (R153, R154, R509 (c)). Safe: the block
  never sees such a request. -/
  | undecodable (e : DecodeError)
  /-- Raised by construction for a MONO configuration outside R46 (R509 (b)). Safe: no instance exists. -/
  | badMonoConfiguration
  /-- Raised by construction for a COLOR configuration outside R55 or R67 (R509 (b)). Safe: no instance
  exists. -/
  | badColorConfiguration
  /-- Raised by construction when both chip flags are set (R45, D23). Safe: no instance exists. -/
  | bothChipFlags
deriving DecidableEq, Repr

/-! ## Reset -/

/-- Draws that answer Ok, or ready, every time. DESIGN CHOICE (log 1). -/
def Draw.always : Draw := { script := [], rest := true }

/-- The draws an instance is reset with. DESIGN CHOICE (log 1): no statement rests on them. -/
def Env.initial : Env :=
  { xfer := .always, bus := .always, reset := .always, supply := .always, backlight := .always, pwm := .always }

/-- The registers of an instance right after construction (R66, R600). -/
def Regs.reset (pf : Format) : Regs :=
  { phase := .uninit, indeterminate := true, dispOn := none, asleep := none, pf := pf, backlightLevel := none,
    resetLine := none, supplyLine := none, blLine := none, pwmSetting := none, apc := none, n := none,
    r := none, yf := none, pix := none, trace := [] }

/-- A MONO panel's sink before the block has sent anything. DESIGN CHOICE (log 9): the spec gives no
value; the registers are zero, the controller has columns 0 to 255, and no byte of the store has a value. -/
def MonoPanel.reset : MonoPanel :=
  { cells := [], mode := 0, cs := 0, ce := 0, ps := 0, pe := 0, col := 0, page := 0, lastCol := 255,
    settled := true, gen := 0 }

/-- A COLOR panel's sink before the block has sent anything. DESIGN CHOICE (log 9). -/
def ColorPanel.reset : ColorPanel :=
  { cells := [], xs := 0, xe := 0, ys := 0, ye := 0, col := 0, row := 0, latch := 0, pending := [], formatOk := true,
    settled := true, gen := 0 }

/-- The state right after construction from a board configuration (R66, R600): no action is performed. -/
def State.ofBoard (b : BoardCfg) : State :=
  { k := b.k, mop := b.mop, cop := b.cop, mcfg := b.mono, ccfg := b.color,
    mono := { regs := .reset (initialPf b.mono), env := .initial, panel := .reset },
    color := { regs := .reset b.color.pixelFormat.toFormat, env := .initial, panel := .reset },
    calls := [], answer := none }

/-- The MONO configuration the model is reset with: M6 of 95_test_vectors.md. DESIGN CHOICE (log 11): a
configuration is a construction argument and the spec gives none. -/
def monoM6 : MonoCfg :=
  { chip := .ssd1306, width := 128, height := 64, segmentOffset := 0, pageOffset := 0, displayOffset := 0,
    multiplexRatio := 0x3F, segmentRemap := true, comScanFlipped := true, comPadCfg := 0x12,
    colorInversion := false, clockDiv := 0x80, precharge := 0x22, internalIref := false, bus := .spi,
    resetGpio := false, supplyGpio := none, tPowerSettle := 0 }

/-- The COLOR configuration the model is reset with: C2 of 95_test_vectors.md, its parameter strings from
the example lines of 43_color_commands.md. DESIGN CHOICE (log 11). -/
def colorC2 : ColorCfg :=
  { width := 240, height := 240, xOffset := 0, yOffset := 0, pixelFormat := .rgb565,
    cmd2enParam := [0x5A, 0x69, 0x02, 0x01], porchParam := [0x0C, 0x0C, 0x00, 0x33, 0x33],
    pwctrl1Param := [0xA4, 0xA1], pvgamParam := List.replicate 14 0, nvgamParam := List.replicate 14 0,
    ramParam := [0x00, 0xF0], rgbParam := [0xCD, 0x08, 0x14], gctrl := 0x35, vcom := 0x19, mdac := 0x00,
    colmod := 0x55, lcm := 0x2C, gamma := 0x01, vrhVdv := some (0x12, 0x20), inversionOn := true,
    bus := .spi, resetGpio := true, blPwm := some { period := 1000 }, blGpio := none }

/-- The block constants the model is reset with: K of 95_test_vectors.md, and zero for every duration.
DESIGN CHOICE (log 11): the source gives none of them. -/
def constsK : Consts :=
  { tMonoRstPulse := 0, tMonoRstSettle := 0, tColorRstLow := 0, tColorRstSettle := 0, tSlpout := 0,
    monoSoftResetCmd := [], vcomhSsd1306 := 0x20, vcomhSsd1309 := 0x34, chargePumpArg := 0x14,
    dcdcArg := 0x8B, irefArg := 0x30, defaultContrast := 0x80, dgmenDefault := 0x00, frctrl2Default := 0x0F,
    vdvvrhenEnable := 0x01, fillChunkRows := 10, fillBufBytes := 4800 }

/-- The board the model is reset with. DESIGN CHOICE (log 11). -/
def defaultBoard : BoardCfg :=
  { mono := monoM6, color := colorC2, k := constsK, mop := .spec, cop := .spec }

/-- The machine right after reset (R66, R600), on the default board. -/
def State.reset : State := State.ofBoard defaultBoard

end Sys2Proof.Machine
end

