-- ==== Sys2Proof/Machine/Operands.lean ====
section
/-!
DEFINITION. Operand assembly: the addresses of a MONO write (R162, R163), the window of a COLOR write (R164),
the lengths of both (R209, R310), and the backlight duty (R411). All arithmetic is on naturals or integers
and narrowed at the end (R13).
-/

namespace Sys2Proof.Machine

/-- A rectangle and its buffer as natural numbers: a `BufferDescriptor` (R60), or one the fill helper makes. -/
structure Rect where
  width : Nat
  height : Nat
  pitch : Nat
  bufSize : Nat
deriving DecidableEq, Repr

/-- A descriptor's fields as naturals. -/
def rectOf (d : BufferDescriptor) : Rect :=
  { width := d.width.toNat, height := d.height.toNat, pitch := d.pitch.toNat, bufSize := d.bufSize.toNat }

/-! ## MONO -/

/-- `K.START_LINE`: the rule fixes it at 0 (R59, D21), so no board has another. -/
def startLine : BitVec 6 := 0

/-- `c0 = trunc8(x + cfg.segment_offset)` (R162), and `c` of the quirk path (R163). -/
def monoColumnStart (cfg : MonoCfg) (x : Nat) : Byte := trunc8 ((x + cfg.segmentOffset.toNat : Nat) : Int)

/-- `c1 = trunc8(x + desc.width - 1 + cfg.segment_offset)` (R162). -/
def monoColumnEnd (cfg : MonoCfg) (x width : Nat) : Byte :=
  trunc8 ((x + width : Nat) - 1 + (cfg.segmentOffset.toNat : Nat) : Int)

/-- `p0 = trunc8(y / 8)` (R162). -/
def monoPageStart (y : Nat) : Byte := trunc8 ((y / 8 : Nat) : Int)

/-- `p1 = trunc8((y + desc.height) / 8 - 1)` (R162); 0xFF when y = 0 and the height is under 8. -/
def monoPageEnd (y height : Nat) : Byte := trunc8 (((y + height) / 8 : Nat) - 1 : Int)

/-- The effective length L = min(buf_size, height * width / 8) (R209). -/
def effectiveLength (d : Rect) : Nat := min d.bufSize (d.height * d.width / 8)

/-- The low nibble of a column byte (R163). -/
def lowNibble (c : Byte) : BitVec 4 := c.extractLsb' 0 4

/-- The high nibble of a column byte (R163). -/
def highNibble (c : Byte) : BitVec 4 := c.extractLsb' 4 4

/-- The three bytes of a page triple of the quirk path: low column, high column, page (R163, R214). -/
def pageTriple (op : MonoOps) (c : Byte) (page : Nat) : List Byte :=
  [lowcolByte op (lowNibble c), highcolByte op (highNibble c), op.pagestart ||| trunc8 (page : Int)]

/-! ## COLOR -/

/-- A window's first bound on an axis: `trunc16(v + offset)` (R164). -/
def windowStart (v : Nat) (offset : Half) : Half := trunc16 ((v + offset.toNat : Nat) : Int)

/-- A window's last bound on an axis: `trunc16(v + offset + size - 1)` (R164). -/
def windowEnd (v : Nat) (offset : Half) (size : Nat) : Half :=
  trunc16 ((v + offset.toNat + size : Nat) - 1 : Int)

/-- The bytes a COLOR write reads (R310). -/
def bytesNeeded (ps : Nat) (d : Rect) : Nat :=
  if d.pitch = d.width then d.width * d.height * ps else ((d.height - 1) * d.pitch + d.width) * ps

/-! ## Backlight -/

/-- `duty = (period * b) / 255`, floor division (R410, R411). -/
def duty (period : Nat) (b : Byte) : Nat := period * b.toNat / 255

end Sys2Proof.Machine
end

