-- ==== Sys2Proof/Machine/Flags.lean ====
section
/-!
DEFINITION. The status registers of an instance: the result codes (R500), the phase gate's condition (R507),
and what abandoning a sequence does to `indeterminate` and `phase` (R37, R505).
-/

namespace Sys2Proof.Machine

/-- The numeric code of a result (R500). -/
def Result.code : Result → Nat
  | .ok => 0
  | .deviceNotReady => 1
  | .geometryViolation => 2
  | .busTransferFailure => 3
  | .unsupportedOperation => 4

/-- `phase = Ready`, the condition of the phase gate (R507). -/
def Regs.isReady (q : Regs) : Bool := q.phase == .ready

/-- The updates after a failed transfer (R505): `indeterminate` is set and, in `init`, `phase` becomes
Failed. Nothing else is written and nothing is rolled back (R506). -/
def Regs.abandon (isInit : Bool) (q : Regs) : Regs :=
  { q with indeterminate := true, phase := if isInit then .failed else q.phase }

end Sys2Proof.Machine
end

