-- ==== Sys2Proof/Machine/Ops.lean ====
section
/-!
DEFINITION. The operations every meaning is built from: memory, draws, register writes, and running the action
list of a host operation (R15, R33, R34), with the one place where an operation ends in an error
(R17, R505, R506, R511).
-/

namespace Sys2Proof.Machine

/-! ## Memory: a panel's pixel store -/

/-- The byte at an address, or no value. -/
def Memory.read : Memory → Nat → Option Byte
  | [], _ => none
  | c :: m, a => if a = c.1 then some c.2 else Memory.read m a

/-- The store after writing one byte. -/
def Memory.write : Memory → Nat → Byte → Memory
  | [], a, v => [(a, v)]
  | c :: m, a, v =>
    if a < c.1 then (a, v) :: c :: m
    else if a = c.1 then (a, v) :: m
    else c :: Memory.write m a v

/-- The store with one byte no longer having a value. -/
def Memory.erase : Memory → Nat → Memory
  | [], _ => []
  | c :: m, a => if a = c.1 then m else c :: Memory.erase m a

/-- The store after writing bytes at consecutive addresses. -/
def Memory.writeAll : Memory → Nat → List Byte → Memory
  | m, _, [] => m
  | m, a, v :: vs => Memory.writeAll (Memory.write m a v) (a + 1) vs

/-- The store with `len` consecutive bytes no longer having a value. -/
def Memory.eraseAll : Memory → Nat → Nat → Memory
  | m, _, 0 => m
  | m, a, len + 1 => Memory.eraseAll (Memory.erase m a) (a + 1) len

/-! ## Draws (R16, D38) -/

/-- The next answer. -/
def Draw.head (d : Draw) : Bool :=
  match d.script with
  | [] => d.rest
  | b :: _ => b

/-- The draw with its next answer taken. -/
def Draw.tail (d : Draw) : Draw := { d with script := d.script.drop 1 }

/-- The readiness draw of a handle (R409). -/
def Env.draw (e : Env) : Handle → Draw
  | .bus => e.bus
  | .reset => e.reset
  | .supply => e.supply
  | .backlight => e.backlight
  | .pwm => e.pwm

/-- The environment after asking a handle once. -/
def Env.asked (e : Env) : Handle → Env
  | .bus => { e with bus := e.bus.tail }
  | .reset => { e with reset := e.reset.tail }
  | .supply => { e with supply := e.supply.tail }
  | .backlight => { e with backlight := e.backlight.tail }
  | .pwm => { e with pwm := e.pwm.tail }

/-- Whether every handle answers that it is ready, asked in order; the first that does not ends the
asking, as the `or` of R202 and R302 does. -/
def readyAll : List Handle → Env → Bool
  | [], _ => true
  | h :: hs, e => (e.draw h).head && readyAll hs (e.asked h)

/-- The environment after that asking. -/
def askAll : List Handle → Env → Env
  | [], e => e
  | h :: hs, e => if (e.draw h).head then askAll hs (e.asked h) else e.asked h

/-! ## Register writes -/

/-- `x <- v` for a register x (R17). -/
inductive RegWrite where
  | phase (p : Phase)
  | indeterminate (b : Bool)
  | dispOn (b : Bool)
  | asleep (b : Bool)
  | pf (f : Format)
  | backlightLevel (b : Byte)
  | n (i : Nat)
  | r (i : Nat)
  | yf (i : Nat)
  | pix (bytes : List Byte)
deriving DecidableEq, Repr

/-- The registers after `x <- v`. -/
def Regs.write (q : Regs) : RegWrite → Regs
  | .phase p => { q with phase := p }
  | .indeterminate b => { q with indeterminate := b }
  | .dispOn b => { q with dispOn := some b }
  | .asleep b => { q with asleep := some b }
  | .pf f => { q with pf := f }
  | .backlightLevel b => { q with backlightLevel := some b }
  | .n i => { q with n := some i }
  | .r i => { q with r := some i }
  | .yf i => { q with yf := some i }
  | .pix bytes => { q with pix := some bytes }

/-- What an action does to the line shadows (R42): the last level or PWM setting driven. A transfer and a
delay write none of them; a delay has no other effect either (R407; log 12). -/
def Regs.effect (q : Regs) : Act → Regs
  | .gpio .reset lvl => { q with resetLine := some lvl }
  | .gpio .supply lvl => { q with supplyLine := some lvl }
  | .gpio .backlight lvl => { q with blLine := some lvl }
  | .pwm period duty => { q with pwmSetting := some (period, duty) }
  | .xfer _ _ => q
  | .delay _ => q

/-- `apc <- 0`, at the start of an operation (R33). -/
def Regs.begin (q : Regs) : Regs := { q with apc := some 0 }

/-- `apc <- apc + 1`, after an action completes (R33). -/
def Regs.advance (q : Regs) : Regs := { q with apc := q.apc.map (· + 1) }

/-- The action recorded in the trace (R104). -/
def Regs.record (q : Regs) (e : Entry) : Regs := { q with trace := q.trace ++ [e] }

/-- At the end of an operation the working registers hold no value (R32, R33) and the pixel buffer is no
longer in use (R61, R100). -/
def Regs.finish (q : Regs) : Regs :=
  { q with apc := none, n := none, r := none, yf := none, pix := none }

/-- `MemRead(a, n)`: bytes a .. a+n-1 of the pixel buffer in use; none past its end (R16, R101, R102). -/
def memRead (pix : Option (List Byte)) (a n : Nat) : Option (List Byte) :=
  match pix with
  | none => none
  | some bytes => if a + n ≤ bytes.length then some ((bytes.drop a).take n) else none

/-! ## Running an operation -/

/-- One element of an operation's sequence: an action, an action whose bytes are read from the pixel buffer
at that point (`emit Xfer(data, MemRead(a, n))`), or a register write. -/
inductive Micro where
  | act (a : Act)
  | send (a n : Nat)
  | set (w : RegWrite)
deriving DecidableEq, Repr

/-- How an operation ends if no transfer fails: with a result, or with a fault of the model (R17). -/
inductive Final where
  | result (r : Result)
  | fault (f : Fault)
deriving DecidableEq, Repr

/-- An operation's action list, with its register writes in their places, and its end (R34). -/
structure Plan where
  micros : List Micro
  final : Final
deriving DecidableEq, Repr

/-- A sequence that ends in Ok. -/
def Plan.ok (ms : List Micro) : Plan := ⟨ms, .result .ok⟩

/-- `raise E` before any action (R17). -/
def Plan.raise (r : Result) : Plan := ⟨[], .result r⟩

/-- Elements put before a plan. -/
def Plan.after (ms : List Micro) (p : Plan) : Plan := ⟨ms ++ p.micros, p.final⟩

/-- One plan, then, if its result is Ok, another; otherwise its own end stands (R441). -/
def Plan.andThen (p q : Plan) : Plan :=
  if p.final = .result .ok then ⟨p.micros ++ q.micros, q.final⟩ else p

/-- The phase gate before an operation's own checks (R507). -/
def gate (q : Regs) (p : Plan) : Plan := if q.isReady then p else .raise .deviceNotReady

/-- What performing an action did. -/
inductive Performed (π : Type) where
  | completed (q : Inst π)
  | failed (q : Inst π)

/-- An action performed with its outcome: recorded in the trace, taken by the panel, and with its effect on
the line shadows. -/
def Inst.commit {π : Type} (sink : π → Entry → π) (e : Entry) (q : Inst π) : Inst π :=
  { q with regs := (q.regs.effect e.act).record e, panel := sink q.panel e }

/-- Performing one action (R15). The outcome of a transfer is the instance's next transfer draw (R104);
the other actions have no failure outcome (D29). -/
def Inst.perform {π : Type} (sink : π → Entry → π) (a : Act) (q : Inst π) : Performed π :=
  match a with
  | .xfer f s =>
    let ok := q.env.xfer.head
    let q' := Inst.commit sink ⟨.xfer f s, ok⟩ { q with env := { q.env with xfer := q.env.xfer.tail } }
    if ok then .completed { q' with regs := q'.regs.advance } else .failed q'
  | .gpio l v =>
    let q' := Inst.commit sink ⟨.gpio l v, true⟩ q
    .completed { q' with regs := q'.regs.advance }
  | .pwm p d =>
    let q' := Inst.commit sink ⟨.pwm p d, true⟩ q
    .completed { q' with regs := q'.regs.advance }
  | .delay t =>
    let q' := Inst.commit sink ⟨.delay t, true⟩ q
    .completed { q' with regs := q'.regs.advance }

/-- What running an operation did. -/
inductive RunResult (π : Type) where
  | done (r : Result) (q : Inst π)
  | fault (f : Fault)

/-- Running the sequence (R33): each element in turn; a failed transfer ends the operation with
BusTransferFailure, after the updates of R505 and with nothing rolled back (R506); a read past the end of
the pixel buffer is the fault of R102, raised before the transfer that would carry the bytes. -/
def runMicros {π : Type} (sink : π → Entry → π) (isInit : Bool) : List Micro → Final → Inst π → RunResult π
  | [], .result r, q => .done r q
  | [], .fault f, _ => .fault f
  | .set w :: ms, fin, q => runMicros sink isInit ms fin { q with regs := q.regs.write w }
  | .act a :: ms, fin, q =>
    match Inst.perform sink a q with
    | .completed q' => runMicros sink isInit ms fin q'
    | .failed q' => .done .busTransferFailure { q' with regs := q'.regs.abandon isInit }
  | .send a n :: ms, fin, q =>
    match memRead q.regs.pix a n with
    | none => .fault .hostBufferOverrun
    | some s =>
      match Inst.perform sink (.xfer .data s) q with
      | .completed q' => runMicros sink isInit ms fin q'
      | .failed q' => .done .busTransferFailure { q' with regs := q'.regs.abandon isInit }

/-- A whole operation of an instance: `apc <- 0`, the sequence, and the working registers let go. -/
def runPlan {π : Type} (sink : π → Entry → π) (isInit : Bool) (p : Plan) (q : Inst π) : RunResult π :=
  match runMicros sink isInit p.micros p.final { q with regs := q.regs.begin } with
  | .done r q' => .done r { q' with regs := q'.regs.finish }
  | .fault f => .fault f

/-- A command transfer. -/
def cmd (s : List Byte) : Micro := .act (.xfer .cmd s)

/-- A data transfer. -/
def dat (s : List Byte) : Micro := .act (.xfer .data s)

/-- `emit Gpio(line, lvl)`. -/
def gpio (l : Line) (v : Level) : Micro := .act (.gpio l v)

/-- `emit Delay(t)`; never skipped, even when t is zero (R407). -/
def delay (t : Nat) : Micro := .act (.delay t)

/-- CMDP, the COLOR command primitive (R301): the command byte, then its parameters if there are any. -/
def cmdp (op : Byte) (params : List Byte) : List Micro :=
  cmd [op] :: if params = [] then [] else [dat params]

end Sys2Proof.Machine
end

