-- ==== Sys2Proof/Machine/Panel.lean ====
section
/-!
DEFINITION. The reference sinks of the panels (20_memory.md section 8, R125 to R128): what a panel does with the
transfers the block sends. They are test-only and no part of the block; no operation reads them. Where the
spec gives a panel's response as "any value" or gives none (93_implementation_defined.md part 1), the whole
sink becomes unknown: no byte of its store has a value and its registers are free values (log 2); where only the
place of some bytes is open, only the store and the pointer do (log 19).
-/

namespace Sys2Proof.Machine

/-! ## MONO -/

/-- The address of G[page][col] in the pixel store. -/
def monoCell (page col : Nat) : Nat := page * 65536 + col

/-- A MONO panel of which nothing is known any more; the column count is a model argument and stays. -/
def MonoPanel.unknown (p : MonoPanel) : MonoPanel :=
  let g := p.gen + 1
  { cells := [], mode := Config.freePanelRegister g 0, cs := Config.freePanelRegister g 1,
    ce := Config.freePanelRegister g 2, ps := Config.freePanelRegister g 3, pe := Config.freePanelRegister g 4,
    col := Config.freePanelRegister g 5, page := Config.freePanelRegister g 6, lastCol := p.lastCol,
    settled := p.settled, gen := g }

/-- A MONO panel after a reset or a drive of its supply line: unknown, and not yet settled (R605, R607; log 32). -/
def MonoPanel.unsettled (p : MonoPanel) : MonoPanel := { p.unknown with settled := false }

/-- A MONO panel after a failed transfer, of which any prefix may have arrived (R505), a reset among it: whether
it is still settled is free. That the next transfer starts a new command is the model's choice (log 31). -/
def MonoPanel.lost (p : MonoPanel) : MonoPanel :=
  { p.unknown with settled := p.settled && Config.freePanelRegister (p.gen + 1) 7 == 0 }

/-- A command on an SSD1306 or SSD1309 panel (R125). The column nibbles and the page start are SH1106
commands (R127): the spec gives them no effect here. A command that is not an addressing command does not
touch the sink (95_test_vectors.md P1). -/
def MonoPanel.rangeCommand (p : MonoPanel) : Instr → MonoPanel
  | .monoMemmode m => { p with mode := m.toNat }
  | .monoColaddr a b => { p with cs := a.toNat, ce := b.toNat, col := a.toNat }
  | .monoPageaddr a b => { p with ps := a.toNat, pe := b.toNat, page := a.toNat }
  | .monoLowcol _ | .monoHighcol _ | .monoPagestart _ => p.unknown
  | _ => p

/-- A command on an SH1106 panel (R127), which "has no usable column/page range command". One whose
configuration also enables the internal reference is sent 0xAD twice, and its response to that is any value
(93 part 1). -/
def MonoPanel.pageCommand (internalIref : Bool) (p : MonoPanel) : Instr → MonoPanel
  | .monoLowcol l => { p with col := p.col / 16 * 16 + l.toNat }
  | .monoHighcol h => { p with col := h.toNat * 16 + p.col % 16 }
  | .monoPagestart g => { p with page := g.toNat }
  | .monoMemmode _ | .monoColaddr _ _ | .monoPageaddr _ _ => p.unknown
  | .monoDcdc _ => if internalIref then p.unknown else p
  | _ => p

/-- A command on a MONO panel. -/
def MonoPanel.command (cfg : MonoCfg) (p : MonoPanel) (i : Instr) : MonoPanel :=
  match cfg.chip with
  | .sh1106 => p.pageCommand cfg.internalIref i
  | .ssd1306 | .ssd1309 => p.rangeCommand i

/-- The commands of one command transfer, cut by R157; `fuel` is the transfer's length. Bytes that are no
command leave the panel unknown. -/
def MonoPanel.commands (cfg : MonoCfg) : Nat → List Byte → MonoPanel → MonoPanel
  | _, [], p => p
  | 0, _ :: _, p => p.unknown
  | fuel + 1, b :: bs, p =>
    match decodeMonoByte cfg.chip b bs with
    | some (i, rest) => MonoPanel.commands cfg fuel rest (p.command cfg i)
    | none => p.unknown

/-- Whether R126 gives a data byte a place: horizontal mode, and a page range whose end is not 0xFF, to which
the response is any value (R162, 93 part 1). The store has columns below 65536. -/
def MonoPanel.windowOk (p : MonoPanel) : Bool := p.mode == 0 && p.pe != 255 && p.col < 65536

/-- A data byte on an SSD1306 or SSD1309 panel in horizontal mode (R126). -/
def MonoPanel.windowByte (p : MonoPanel) (v : Byte) : MonoPanel :=
  if p.windowOk then
    let p' := { p with cells := p.cells.write (monoCell p.page p.col) v }
    if p.col = p.ce then { p' with col := p.cs, page := if p.page = p.pe then p.ps else p.page + 1 }
    else { p' with col := p.col + 1 }
  else p.unknown

/-- How many bytes the ranges hold, if they are ranges: columns in order, and a page range that ends no earlier
than the page before its start. Of other ranges R126 alone says where bytes go (log 19). -/
def MonoPanel.holds (p : MonoPanel) : Option Nat :=
  if p.cs ≤ p.ce && p.ps ≤ p.pe + 1 then some ((p.ce + 1 - p.cs) * (p.pe + 1 - p.ps)) else none

/-- A MONO panel that has put bytes somewhere: any byte of the store may be one of them, and the pointer is free;
the mode and the ranges stay (log 2). -/
def MonoPanel.misplaced (p : MonoPanel) : MonoPanel :=
  let g := p.gen + 1
  { p with cells := [], col := Config.freePanelRegister g 5, page := Config.freePanelRegister g 6, gen := g }

/-- A payload on an SSD1306 or SSD1309 panel: its bytes go where R126 says, wrapping as it says; where the extra
bytes of one that is longer than the ranges hold go is any value (R213 (a), 93 part 1; log 19). -/
def MonoPanel.windowPayload (s : List Byte) (p : MonoPanel) : MonoPanel :=
  match p.holds with
  | some n =>
    if n < s.length then ((s.take n).foldl MonoPanel.windowByte p).misplaced else s.foldl MonoPanel.windowByte p
  | none => s.foldl MonoPanel.windowByte p

/-- A data byte on an SH1106 panel (R127): no wrap; past the last column the spec says nothing. -/
def MonoPanel.pageByte (p : MonoPanel) (v : Byte) : MonoPanel :=
  if p.col ≤ p.lastCol then { p with cells := p.cells.write (monoCell p.page p.col) v, col := p.col + 1 }
  else p.unknown

/-- A payload on a MONO panel. -/
def MonoPanel.payload (chip : Chip) (s : List Byte) (p : MonoPanel) : MonoPanel :=
  match chip with
  | .sh1106 => s.foldl MonoPanel.pageByte p
  | .ssd1306 | .ssd1309 => MonoPanel.windowPayload s p

/-- What a MONO panel does with a performed action. A failed transfer may have delivered any prefix of its
bytes (R505); a reset, the soft-reset bytes (R283) and a drive of the supply line have no effect the spec gives
(R517, 93 part 1), and until a delay has followed one the response to a transfer is any value (R605, R607; log
32); the other lines do nothing to it. DESIGN CHOICE (logs 18, 32): every drive of the reset or supply line counts,
also one to the level the line already has, of whose effect on the panel the spec says nothing. -/
def MonoPanel.receive (k : Consts) (cfg : MonoCfg) (p : MonoPanel) (e : Entry) : MonoPanel :=
  match e.act with
  | .xfer f s =>
    if !e.ok then p.lost
    else if !p.settled then p.unknown
    else match f with
      | .cmd => if s = k.monoSoftResetCmd then p.unsettled else MonoPanel.commands cfg s.length s p
      | .data => p.payload cfg.chip s
  | .gpio .reset _ => p.unsettled
  | .gpio .supply _ => p.unsettled
  | .gpio .backlight _ => p
  | .pwm _ _ => p
  | .delay _ => { p with settled := true }

/-! ## COLOR -/

/-- The address of the first byte of a pixel in the pixel store. -/
def colorCell (row col : Nat) : Nat := (row * 65536 + col) * 4

/-- A COLOR panel of which nothing is known any more: its registers, the command it holds, the bytes of a pixel
of `ps` bytes it has not finished, and whether its format is the compiled one, are free values (log 2). -/
def ColorPanel.unknown (ps : Nat) (p : ColorPanel) : ColorPanel :=
  let g := p.gen + 1
  { cells := [], xs := Config.freePanelRegister g 0, xe := Config.freePanelRegister g 1,
    ys := Config.freePanelRegister g 2, ye := Config.freePanelRegister g 3, col := Config.freePanelRegister g 4,
    row := Config.freePanelRegister g 5, formatOk := Config.freePanelRegister g 6 == 0,
    latch := BitVec.ofNat 8 (Config.freePanelRegister g 8),
    pending := (List.range (Config.freePanelRegister g 9 % ps)).map fun j =>
      BitVec.ofNat 8 (Config.freePanelRegister g (10 + j)),
    settled := p.settled, gen := g }

/-- A COLOR panel after a reset: unknown, and not yet settled (R605; log 32). -/
def ColorPanel.unsettled (ps : Nat) (p : ColorPanel) : ColorPanel := { p.unknown ps with settled := false }

/-- A COLOR panel after a failed transfer, of which any prefix may have arrived (R505), a reset or a sleep-out
among it: whether it is still settled is free. -/
def ColorPanel.lost (ps : Nat) (p : ColorPanel) : ColorPanel :=
  { p.unknown ps with settled := p.settled && Config.freePanelRegister (p.gen + 1) 7 == 0 }

/-- A pixel left unfinished when the stream ends is unspecified (R128): its bytes have no value. -/
def ColorPanel.dropPartial (ps : Nat) (p : ColorPanel) : ColorPanel :=
  { p with
    cells := if p.pending = [] then p.cells else p.cells.eraseAll (colorCell p.row p.col) ps, pending := [] }

/-- A command byte on a COLOR panel (R128): RAMWR moves the pointer to the window's start; a software
reset has no effect the spec gives; the others wait for their parameters or do not touch the sink. After a
software reset or a sleep-out, the response to a command is any value until a delay has followed (R605, R606;
log 32). -/
def ColorPanel.command (ps : Nat) (p : ColorPanel) (op : Byte) : ColorPanel :=
  if !p.settled then p.unknown ps
  else
    let p := p.dropPartial ps
    if op = 0x01 then p.unsettled ps
    else if op = 0x2C then { p with latch := op, col := p.xs, row := p.ys }
    else { p with latch := op, settled := op != 0x11 }

/-- Whether the window is one R128 gives a meaning to: its ends in order and inside the panel. A window
outside the panel, or wrapped, may do anything (93 part 1). -/
def ColorPanel.windowOk (cfg : ColorCfg) (p : ColorPanel) : Bool :=
  cfg.xOffset.toNat ≤ p.xs && p.xs ≤ p.col && p.col ≤ p.xe && p.xe < cfg.xOffset.toNat + cfg.width.toNat
    && cfg.yOffset.toNat ≤ p.ys && p.ys ≤ p.row && p.row ≤ p.ye && p.ye < cfg.yOffset.toNat + cfg.height.toNat

/-- The interface format a compiled pixel format calls for: 0x55 or 0x66 (R362, general knowledge). -/
def colmodOf : ColorFormat → Byte
  | .rgb565 => 0x55
  | .rgb888 => 0x66

/-- The pointer after a whole pixel (R128). -/
def ColorPanel.advance (p : ColorPanel) : ColorPanel :=
  if p.col = p.xe then { p with col := p.xs, row := if p.row = p.ye then p.ys else p.row + 1 }
  else { p with col := p.col + 1 }

/-- A byte of the pixel stream (R128): every PS of them form a pixel written at the pointer, if the panel was
told the format the block was compiled for; otherwise the image is any value (93 part 1). -/
def ColorPanel.streamByte (cfg : ColorCfg) (p : ColorPanel) (v : Byte) : ColorPanel :=
  if p.windowOk cfg && p.formatOk then
    let px := p.pending ++ [v]
    if px.length = cfg.pixelFormat.bytes then
      ({ p with cells := p.cells.writeAll (colorCell p.row p.col) px, pending := [] } : ColorPanel).advance
    else { p with pending := px }
  else p.unknown cfg.pixelFormat.bytes

/-- A data transfer on a COLOR panel: the parameters, or the pixel stream, of the latched command (R158). -/
def ColorPanel.data (cfg : ColorCfg) (p : ColorPanel) (s : List Byte) : ColorPanel :=
  if p.latch = 0x2A then
    match s with
    | [a1, a0, b1, b0] => { p with xs := (ofBe16 a1 a0).toNat, xe := (ofBe16 b1 b0).toNat }
    | _ => p.unknown cfg.pixelFormat.bytes
  else if p.latch = 0x2B then
    match s with
    | [a1, a0, b1, b0] => { p with ys := (ofBe16 a1 a0).toNat, ye := (ofBe16 b1 b0).toNat }
    | _ => p.unknown cfg.pixelFormat.bytes
  else if p.latch = 0x3A then { p with formatOk := s == [colmodOf cfg.pixelFormat] }
  else if p.latch = 0x2C then s.foldl (ColorPanel.streamByte cfg) p
  else p

/-- What a COLOR panel does with a performed action, as for MONO; every drive of the reset line counts here too
(logs 18, 32). COLOR has no supply line (R405). -/
def ColorPanel.receive (cfg : ColorCfg) (p : ColorPanel) (e : Entry) : ColorPanel :=
  match e.act with
  | .xfer f s =>
    if !e.ok then p.lost cfg.pixelFormat.bytes
    else match f with
      | .cmd => s.foldl (ColorPanel.command cfg.pixelFormat.bytes) p
      | .data => if !p.settled then p.unknown cfg.pixelFormat.bytes else p.data cfg s
  | .gpio .reset _ => p.unsettled cfg.pixelFormat.bytes
  | .gpio .supply _ => p
  | .gpio .backlight _ => p
  | .pwm _ _ => p
  | .delay _ => { p with settled := true }

/-! ## Operations of the two instances -/

/-- A whole operation of the MONO instance: its registers, draws and panel change, its result is handed back,
and nothing of the COLOR instance is touched (R515). -/
def runMono (isInit : Bool) (p : Plan) (s : State) : Host.Outcome State Fault Refusal :=
  match runPlan (MonoPanel.receive s.k s.mcfg) isInit p s.mono with
  | .done r q => .next { s with mono := q, answer := some (.result r) }
  | .fault f => .fault f

/-- A whole operation of the COLOR instance, as for MONO. -/
def runColor (isInit : Bool) (p : Plan) (s : State) : Host.Outcome State Fault Refusal :=
  match runPlan (ColorPanel.receive s.ccfg) isInit p s.color with
  | .done r q => .next { s with color := q, answer := some (.result r) }
  | .fault f => .fault f

end Sys2Proof.Machine
end

