-- ==== Sys2Proof/Machine/Backlight.lean ====
section
/-!
DEFINITION. The BLPWR unit (44_backlight_power.md): the reset pulses, the supply gating and the physical levels
of the lines, shared by the drivers' operations, and the host operation `set_brightness` on both units.
-/

namespace Sys2Proof.Machine

/-! ## Sub-sequences -/

/-- MONO_HW_RESET (R401). -/
def monoHwReset (k : Consts) : List Micro :=
  [gpio .reset .asserted, delay k.tMonoRstPulse, gpio .reset .deasserted, delay k.tMonoRstSettle]

/-- SOFT_RESET as a transfer of its own, sent only when its string is not empty (R283, R402). -/
def monoSoftResetXfer (k : Consts) : List Micro :=
  if k.monoSoftResetCmd = [] then [] else [cmd k.monoSoftResetCmd]

/-- MONO_SW_RESET (R402). -/
def monoSwReset (k : Consts) : List Micro := monoSoftResetXfer k ++ [delay k.tMonoRstSettle]

/-- The reset step of MONO init: the hardware one when a reset line exists, else the software one (R204). -/
def monoResetStep (k : Consts) (cfg : MonoCfg) : List Micro :=
  if cfg.resetGpio then monoHwReset k else monoSwReset k

/-- COLOR_RESET (R403). -/
def colorResetStep (k : Consts) (op : ColorOps) (cfg : ColorCfg) : List Micro :=
  if cfg.resetGpio then
    [gpio .reset .asserted, delay k.tColorRstLow, gpio .reset .deasserted, delay k.tColorRstSettle]
  else cmdp op.swreset [] ++ [delay k.tColorRstSettle]

/-- SUPPLY_ON (R404). -/
def supplyOn (cfg : MonoCfg) : List Micro :=
  if cfg.supplyGpio.isSome then [gpio .supply .asserted, delay cfg.tPowerSettle] else []

/-- SUPPLY_OFF (R405). -/
def supplyOff (cfg : MonoCfg) : List Micro :=
  if cfg.supplyGpio.isSome then [gpio .supply .deasserted] else []

/-! ## Physical levels (R406) -/

/-- A line's physical level, true for high, from its logical level and polarity. -/
def physicalLevel (activeHigh : Bool) (lvl : Level) : Bool := (lvl == .asserted) == activeHigh

/-- The reset line's physical level: asserted is low (R406). -/
def resetPhysical (lvl : Level) : Bool := physicalLevel false lvl

/-! ## set_brightness -/

/-- Whether the backlight PWM is asked for its readiness: it is configured (R410). -/
def pwmHandles (cfg : ColorCfg) : List Handle := if cfg.blPwm.isSome then [.pwm] else []

/-- COLOR.SET_BRIGHTNESS after the phase gate, given the PWM's readiness answer (R410): PWM first (R411), GPIO as
fallback (R412), else an error with no action (R413). -/
def brightnessPlan (cfg : ColorCfg) (pwmReady : Bool) (b : Byte) : Plan :=
  match cfg.blPwm, pwmReady, cfg.blGpio with
  | some h, true, _ => .ok [.act (.pwm h.period (duty h.period b)), .set (.backlightLevel b)]
  | _, _, some _ =>
    .ok [gpio .backlight (if b = 0 then .deasserted else .asserted), .set (.backlightLevel b)]
  | some _, false, none => .raise .deviceNotReady
  | none, _, none => .raise .unsupportedOperation

/-- COLOR set_brightness (R410). The phase gate comes before the readiness draw (R414 (e)). -/
def execColorSetBrightness (b : Byte) (s : State) : Host.Outcome State Fault Refusal :=
  if s.color.regs.isReady then
    runColor false (brightnessPlan s.ccfg (readyAll (pwmHandles s.ccfg) s.color.env) b)
      { s with color := { s.color with env := askAll (pwmHandles s.ccfg) s.color.env } }
  else runColor false (.raise .deviceNotReady) s

/-- MONO set_brightness: rejected in every phase (R225). -/
def execMonoSetBrightness (_b : Byte) (s : State) : Host.Outcome State Fault Refusal :=
  runMono false (.raise .unsupportedOperation) s

end Sys2Proof.Machine
end

