-- ==== Sys2Proof/Machine/MonoOps.lean ====
section
/-!
DEFINITION. The host operations of a MONO instance (40_mono_ops.md), but for `set_brightness` and `fill`, which
stand with their COLOR counterparts in Backlight.lean and Fill.lean.
-/

namespace Sys2Proof.Machine

/-! ## init -/

/-- The handles MONO init asks, in order (R202). -/
def monoHandles (cfg : MonoCfg) : List Handle :=
  .bus :: ((if cfg.resetGpio then [.reset] else []) ++ if cfg.supplyGpio.isSome then [.supply] else [])

/-- The VCOMH argument by chip (R203, R282). -/
def vcomhArg (k : Consts) (chip : Chip) : Byte :=
  match chip with
  | .ssd1309 => k.vcomhSsd1309
  | .ssd1306 | .sh1106 => k.vcomhSsd1306

/-- The charge-pump command by chip (R203 T4, R267, R272). -/
def chargePump (k : Consts) (op : MonoOps) (chip : Chip) : List Byte :=
  match chip with
  | .sh1106 => [op.dcdc, k.dcdcArg]
  | .ssd1306 | .ssd1309 => [op.chargepump, k.chargePumpArg]

/-- The polarity command of a format (R165). -/
def polarityByte (op : MonoOps) (f : Format) : Byte := if f = .monoInverted then op.inverse else op.normal

/-- MONO_CONFIGURE (R203), for the format `pf` that init has just written. -/
def monoConfigure (k : Consts) (op : MonoOps) (cfg : MonoCfg) (pf : Format) : List Micro :=
  [cmd [segremapByte op cfg.segmentRemap, comscanByte op cfg.comScanFlipped],
   cmd [op.clockdiv, cfg.clockDiv, op.precharge, cfg.precharge, op.vcomh, vcomhArg k cfg.chip],
   cmd [startlineByte op startLine, op.dispoffset, cfg.displayOffset, op.compins, cfg.comPadCfg, op.mux,
     cfg.multiplexRatio],
   cmd (chargePump k op cfg.chip)]
  ++ (if cfg.internalIref then [cmd [op.iref, k.irefArg]] else [])
  ++ [cmd [polarityByte op pf], cmd [op.contrast, k.defaultContrast]]

/-- MONO_DISPLAY_ON (R221). -/
def monoDisplayOn (op : MonoOps) (cfg : MonoCfg) : List Micro :=
  supplyOn cfg ++ [cmd [op.dispon], .set (.dispOn true)]

/-- MONO_DISPLAY_OFF (R220). -/
def monoDisplayOff (op : MonoOps) (cfg : MonoCfg) : List Micro :=
  [cmd [op.dispoff], .set (.dispOn false)] ++ supplyOff cfg

/-- The registers a successful init writes last (R205, R305). -/
def initDone : List Micro := [.set (.phase .ready), .set (.indeterminate false)]

/-- MONO init once its handles are ready (R201). -/
def monoInitPlan (k : Consts) (op : MonoOps) (cfg : MonoCfg) : Plan :=
  .ok ([.set (.pf (initialPf cfg))] ++ monoResetStep k cfg ++ monoConfigure k op cfg (initialPf cfg)
    ++ monoDisplayOn op cfg ++ initDone)

/-- An init whose handles are not all ready: no action, `phase <- Failed`, DeviceNotReady (R202, R302). -/
def initNotReady : Plan := ⟨[.set (.phase .failed)], .result .deviceNotReady⟩

/-- MONO init (R201): the readiness check, then the whole sequence, in any phase (R206). -/
def execMonoInit (s : State) : Host.Outcome State Fault Refusal :=
  runMono true
    (if readyAll (monoHandles s.mcfg) s.mono.env then monoInitPlan s.k s.mop s.mcfg else initNotReady)
    { s with mono := { s.mono with env := askAll (monoHandles s.mcfg) s.mono.env } }

/-! ## write -/

/-- MONO_WRITE_CHECKS (R208), in the rule's order; every one of them is a GeometryViolation. -/
def monoWriteRejected (cfg : MonoCfg) (x y : Nat) (d : Rect) : Bool :=
  d.pitch < d.width
  || (d.width == 0 || d.height == 0)
  || (x % 8 != 0 || y % 8 != 0)
  || (cfg.width.toNat < x + d.width || cfg.height.toNat < y + d.height)

/-- MONO_WRITE_DEFAULT (R212). -/
def monoWriteDefault (op : MonoOps) (cfg : MonoCfg) (x y : Nat) (d : Rect) (len : Nat) : Plan :=
  .ok [cmd [op.memmode, op.modeHorizontal, op.coladdr, monoColumnStart cfg x, monoColumnEnd cfg x d.width,
      op.pageaddr, monoPageStart y, monoPageEnd y d.height],
    .send 0 len]

/-- The pages of the quirk path from page `n` on, `left` of them, up to the first the guard stops (R214,
R215). -/
def monoQuirkPages (op : MonoOps) (c : Byte) (y width len : Nat) : (n left : Nat) → Plan
  | _, 0 => .ok []
  | n, left + 1 =>
    if len < (n + 1) * width then ⟨[.set (.n n)], .result .geometryViolation⟩
    else .after [.set (.n n), cmd (pageTriple op c (n + y / 8)), .send (n * width) width]
      (monoQuirkPages op c y width len (n + 1) left)

/-- MONO_WRITE_QUIRK (R214). -/
def monoWriteQuirk (op : MonoOps) (cfg : MonoCfg) (x y : Nat) (d : Rect) (len : Nat) : Plan :=
  monoQuirkPages op (monoColumnStart cfg x) y d.width len 0 (d.height / 8)

/-- The path a chip takes (R210). -/
def monoWritePath (op : MonoOps) (cfg : MonoCfg) (x y : Nat) (d : Rect) (len : Nat) : Plan :=
  match cfg.chip with
  | .sh1106 => monoWriteQuirk op cfg x y d len
  | .ssd1306 | .ssd1309 => monoWriteDefault op cfg x y d len

/-- MONO write after the phase gate (R207): the checks, the effective length, then the chip's path over the
caller's buffer. -/
def monoWritePlan (op : MonoOps) (cfg : MonoCfg) (x y : Nat) (d : Rect) (pix : List Byte) : Plan :=
  if monoWriteRejected cfg x y d then .raise .geometryViolation
  else if effectiveLength d = 0 then .raise .geometryViolation
  else .after [.set (.pix pix)] (monoWritePath op cfg x y d (effectiveLength d))

/-- MONO write (R207). -/
def execMonoWrite (x y : Half) (desc : BufferDescriptor) (pix : List Byte) (s : State) :
    Host.Outcome State Fault Refusal :=
  runMono false (gate s.mono.regs (monoWritePlan s.mop s.mcfg x.toNat y.toNat (rectOf desc) pix)) s

/-! ## set_contrast, set_pixel_format, get_capabilities, set_orientation -/

/-- MONO set_contrast (R217). -/
def execMonoSetContrast (v : Byte) (s : State) : Host.Outcome State Fault Refusal :=
  runMono false (gate s.mono.regs (.ok [cmd [s.mop.contrast, v]])) s

/-- Whether a format is one of the two polarities (R218). -/
def isMonoFormat (f : Format) : Bool := f == .monoNormal || f == .monoInverted

/-- MONO set_pixel_format after the phase gate (R218): a colour format is rejected, the current format is a
no-op, another one is sent and then held. -/
def monoPixelFormatPlan (op : MonoOps) (pf f : Format) : Plan :=
  if !isMonoFormat f then .raise .unsupportedOperation
  else if f = pf then .ok []
  else .ok [cmd [polarityByte op f], .set (.pf f)]

/-- MONO set_pixel_format (R218). -/
def execMonoSetPixelFormat (f : Format) (s : State) : Host.Outcome State Fault Refusal :=
  runMono false (gate s.mono.regs (monoPixelFormatPlan s.mop s.mono.regs.pf f)) s

/-- The capabilities of a MONO instance (R62, R219). -/
def monoCapabilities (cfg : MonoCfg) (pf : Format) : Capabilities :=
  { width := cfg.width, height := cfg.height, supportedFormats := [.monoNormal, .monoInverted],
    currentFormat := pf, orientation := .normal }

/-- MONO get_capabilities: in every phase, no action, no register written (R219). -/
def execMonoGetCapabilities (s : State) : Host.Outcome State Fault Refusal :=
  .next { s with answer := some (.capabilities (monoCapabilities s.mcfg s.mono.regs.pf)) }

/-- Only the identity orientation is accepted, with no action (R224, R318). -/
def orientationPlan (o : Orientation) : Plan :=
  if o = .normal then .ok [] else .raise .unsupportedOperation

/-- MONO set_orientation (R224). -/
def execMonoSetOrientation (o : Orientation) (s : State) : Host.Outcome State Fault Refusal :=
  runMono false (gate s.mono.regs (orientationPlan o)) s

/-! ## suspend, resume, blanking -/

/-- MONO suspend (R220). -/
def execMonoSuspend (s : State) : Host.Outcome State Fault Refusal :=
  runMono false (gate s.mono.regs (.ok (monoDisplayOff s.mop s.mcfg))) s

/-- MONO resume (R221). -/
def execMonoResume (s : State) : Host.Outcome State Fault Refusal :=
  runMono false (gate s.mono.regs (.ok (monoDisplayOn s.mop s.mcfg))) s

/-- MONO blanking_on is suspend (R222). -/
def execMonoBlankingOn (s : State) : Host.Outcome State Fault Refusal :=
  runMono false (gate s.mono.regs (.ok (monoDisplayOff s.mop s.mcfg))) s

/-- MONO blanking_off is resume (R223). -/
def execMonoBlankingOff (s : State) : Host.Outcome State Fault Refusal :=
  runMono false (gate s.mono.regs (.ok (monoDisplayOn s.mop s.mcfg))) s

end Sys2Proof.Machine
end

