-- ==== Sys2Proof/Machine/ColorOps.lean ====
section
/-!
DEFINITION. The host operations of a COLOR instance (42_color_ops.md), but for `set_brightness` and `fill`,
which stand in Backlight.lean and Fill.lean.
-/

namespace Sys2Proof.Machine

/-! ## init -/

/-- The handles COLOR init asks, in order (R302); the backlight PWM is not among them (D50). -/
def colorHandles (cfg : ColorCfg) : List Handle :=
  .bus :: ((if cfg.resetGpio then [.reset] else []) ++ if cfg.blGpio.isSome then [.backlight] else [])

/-- The optional VRH/VDV commands (R304, R370 to R372). -/
def vrhVdvStep (k : Consts) (op : ColorOps) (v : Option (Byte × Byte)) : List Micro :=
  match v with
  | none => []
  | some (vrh, vdv) => cmdp op.vdvvrhen [k.vdvvrhenEnable] ++ cmdp op.vrhs [vrh] ++ cmdp op.vdvs [vdv]

/-- COLOR_CONFIGURE (R304). -/
def colorConfigure (k : Consts) (op : ColorOps) (cfg : ColorCfg) : List Micro :=
  cmdp op.cmd2en cfg.cmd2enParam
  ++ cmdp op.porctrl cfg.porchParam
  ++ cmdp op.dgmen [k.dgmenDefault]
  ++ cmdp op.frctrl2 [k.frctrl2Default]
  ++ cmdp op.gctrl [cfg.gctrl]
  ++ cmdp op.vcoms [cfg.vcom]
  ++ vrhVdvStep k op cfg.vrhVdv
  ++ cmdp op.pwctrl1 cfg.pwctrl1Param
  ++ cmdp op.madctl [cfg.mdac]
  ++ cmdp op.colmod [cfg.colmod]
  ++ cmdp op.lcmctrl [cfg.lcm]
  ++ cmdp op.gamset [cfg.gamma]
  ++ cmdp (if cfg.inversionOn then op.invon else op.invoff) []
  ++ cmdp op.pvgamctrl cfg.pvgamParam
  ++ cmdp op.nvgamctrl cfg.nvgamParam
  ++ cmdp op.ramctrl cfg.ramParam
  ++ cmdp op.rgbctrl cfg.rgbParam

/-- Display off, then its shadow (R304, R315). -/
def colorDisplayOff (op : ColorOps) : List Micro := cmdp op.dispoff [] ++ [.set (.dispOn false)]

/-- Display on, then its shadow (R305, R316). -/
def colorDisplayOn (op : ColorOps) : List Micro := cmdp op.dispon [] ++ [.set (.dispOn true)]

/-- Sleep out, its shadow, and the settle delay that always follows it (R305, R320, R408). -/
def colorSleepOut (k : Consts) (op : ColorOps) : List Micro :=
  cmdp op.slpout [] ++ [.set (.asleep false), delay k.tSlpout]

/-- Sleep in, then its shadow; no delay follows (R319, R606). -/
def colorSleepIn (op : ColorOps) : List Micro := cmdp op.slpin [] ++ [.set (.asleep true)]

/-- COLOR_WAKE (R305). -/
def colorWake (k : Consts) (op : ColorOps) : List Micro := colorSleepOut k op ++ colorDisplayOn op

/-- COLOR init once its handles are ready (R302). -/
def colorInitPlan (k : Consts) (op : ColorOps) (cfg : ColorCfg) : Plan :=
  .ok (colorResetStep k op cfg ++ colorDisplayOff op ++ colorConfigure k op cfg ++ colorWake k op ++ initDone)

/-- COLOR init (R302): the readiness check, then the whole sequence, in any phase (R306). -/
def execColorInit (s : State) : Host.Outcome State Fault Refusal :=
  runColor true
    (if readyAll (colorHandles s.ccfg) s.color.env then colorInitPlan s.k s.cop s.ccfg else initNotReady)
    { s with color := { s.color with env := askAll (colorHandles s.ccfg) s.color.env } }

/-! ## write -/

/-- COLOR_WRITE_CHECKS (R308), in the rule's order. -/
def colorWriteRejected (d : Rect) : Bool := d.pitch < d.width || (d.width == 0 || d.height == 0)

/-- COLOR_WINDOW (R309). -/
def colorWindow (op : ColorOps) (cfg : ColorCfg) (x y : Nat) (d : Rect) : List Micro :=
  cmdp op.caset (be16 (windowStart x cfg.xOffset) ++ be16 (windowEnd x cfg.xOffset d.width))
  ++ cmdp op.raset (be16 (windowStart y cfg.yOffset) ++ be16 (windowEnd y cfg.yOffset d.height))
  ++ [cmd [op.ramwr]]

/-- COLOR_STREAM_CONTIGUOUS (R311). -/
def colorContiguous (ps : Nat) (d : Rect) : List Micro := [.send 0 (d.width * d.height * ps)]

/-- The rows of COLOR_STREAM_STRIDED from row `r` on, `left` of them (R312). -/
def colorRows (ps width pitch : Nat) : (r left : Nat) → List Micro
  | _, 0 => []
  | r, left + 1 => [.set (.r r), .send (r * pitch * ps) (width * ps)] ++ colorRows ps width pitch (r + 1) left

/-- The stream of a write, contiguous or strided (R307, R314). -/
def colorStream (ps : Nat) (d : Rect) : List Micro :=
  if d.pitch = d.width then colorContiguous ps d else colorRows ps d.width d.pitch 0 d.height

/-- COLOR write after the phase gate (R307): the checks, the buffer bound (R310), the window and the stream,
over the pixel buffer in use. -/
def colorWritePlan (op : ColorOps) (cfg : ColorCfg) (x y : Nat) (d : Rect) : Plan :=
  if colorWriteRejected d then .raise .geometryViolation
  else if d.bufSize < bytesNeeded cfg.pixelFormat.bytes d then ⟨[], .fault .hostBufferOverrun⟩
  else .ok (colorWindow op cfg x y d ++ colorStream cfg.pixelFormat.bytes d)

/-- COLOR write (R307). -/
def execColorWrite (x y : Half) (desc : BufferDescriptor) (pix : List Byte) (s : State) :
    Host.Outcome State Fault Refusal :=
  runColor false
    (gate s.color.regs
      (.after [.set (.pix pix)] (colorWritePlan s.cop s.ccfg x.toNat y.toNat (rectOf desc)))) s

/-! ## The other operations -/

/-- COLOR blanking_on (R315). -/
def execColorBlankingOn (s : State) : Host.Outcome State Fault Refusal :=
  runColor false (gate s.color.regs (.ok (colorDisplayOff s.cop))) s

/-- COLOR blanking_off (R316); it does not read `asleep`. -/
def execColorBlankingOff (s : State) : Host.Outcome State Fault Refusal :=
  runColor false (gate s.color.regs (.ok (colorDisplayOn s.cop))) s

/-- COLOR set_pixel_format after the phase gate: only the compiled format, with no action (R317). -/
def colorPixelFormatPlan (cfg : ColorCfg) (f : Format) : Plan :=
  if f = cfg.pixelFormat.toFormat then .ok [] else .raise .unsupportedOperation

/-- COLOR set_pixel_format (R317). -/
def execColorSetPixelFormat (f : Format) (s : State) : Host.Outcome State Fault Refusal :=
  runColor false (gate s.color.regs (colorPixelFormatPlan s.ccfg f)) s

/-- COLOR set_orientation (R318). -/
def execColorSetOrientation (o : Orientation) (s : State) : Host.Outcome State Fault Refusal :=
  runColor false (gate s.color.regs (orientationPlan o)) s

/-- COLOR suspend (R319). -/
def execColorSuspend (s : State) : Host.Outcome State Fault Refusal :=
  runColor false (gate s.color.regs (.ok (colorSleepIn s.cop))) s

/-- COLOR resume (R320). -/
def execColorResume (s : State) : Host.Outcome State Fault Refusal :=
  runColor false (gate s.color.regs (.ok (colorSleepOut s.k s.cop))) s

/-- The capabilities of a COLOR instance (R62, R321). -/
def colorCapabilities (cfg : ColorCfg) : Capabilities :=
  { width := cfg.width, height := cfg.height, supportedFormats := [cfg.pixelFormat.toFormat],
    currentFormat := cfg.pixelFormat.toFormat, orientation := .normal }

/-- COLOR get_capabilities: in every phase, no action, no register written (R321). -/
def execColorGetCapabilities (s : State) : Host.Outcome State Fault Refusal :=
  .next { s with answer := some (.capabilities (colorCapabilities s.ccfg)) }

/-- COLOR set_contrast: rejected in every phase (R322). -/
def execColorSetContrast (_v : Byte) (s : State) : Host.Outcome State Fault Refusal :=
  runColor false (.raise .unsupportedOperation) s

end Sys2Proof.Machine
end

