-- ==== Sys2Proof/Machine/ColorWire.lean ====
section
/-!
DEFINITION. The COLOR wire rows (43_color_commands.md): each is the emission of that command by the COLOR
instance, outside a host operation, with the primitive CMDP: the command byte, then its parameters (R158,
R301; log 3). Byte values come from the opcode record of the state (R161).
-/

namespace Sys2Proof.Machine

/-- A wire command of the COLOR instance (R301). -/
def emitColor (op : Byte) (params : List Byte) (s : State) : Host.Outcome State Fault Refusal :=
  runColor false (.ok (cmdp op params)) s

/-- SWRESET: software reset (R350). -/
def execColorSwreset (s : State) : Host.Outcome State Fault Refusal :=
  emitColor s.cop.swreset [] s

/-- SLPIN: sleep in; once sent, `asleep` is true (R39); no delay follows (R351). -/
def execColorSlpin (s : State) : Host.Outcome State Fault Refusal :=
  runColor false (.ok (colorSleepIn s.cop)) s

/-- SLPOUT: sleep out; once sent, `asleep` is false (R39) and the settle delay follows, as after every sleep-out (R408) (R352). -/
def execColorSlpout (s : State) : Host.Outcome State Fault Refusal :=
  runColor false (.ok (colorSleepOut s.k s.cop)) s

/-- INVOFF: display inversion off (R353). -/
def execColorInvoff (s : State) : Host.Outcome State Fault Refusal :=
  emitColor s.cop.invoff [] s

/-- INVON: display inversion on (R354). -/
def execColorInvon (s : State) : Host.Outcome State Fault Refusal :=
  emitColor s.cop.invon [] s

/-- GAMSET: the gamma curve (R355). -/
def execColorGamset (a : Byte) (s : State) : Host.Outcome State Fault Refusal :=
  emitColor s.cop.gamset [a] s

/-- DISPOFF: display off; once sent, `disp_on` is false (R38) (R356). -/
def execColorDispoff (s : State) : Host.Outcome State Fault Refusal :=
  runColor false (.ok (colorDisplayOff s.cop)) s

/-- DISPON: display on; once sent, `disp_on` is true (R38) (R357). -/
def execColorDispon (s : State) : Host.Outcome State Fault Refusal :=
  runColor false (.ok (colorDisplayOn s.cop)) s

/-- CASET: the column window, most significant bytes first (R109) (R358). -/
def execColorCaset (xs xe : Half) (s : State) : Host.Outcome State Fault Refusal :=
  emitColor s.cop.caset (be16 xs ++ be16 xe) s

/-- RASET: the row window, most significant bytes first (R109) (R359). -/
def execColorRaset (ys ye : Half) (s : State) : Host.Outcome State Fault Refusal :=
  emitColor s.cop.raset (be16 ys ++ be16 ye) s

/-- RAMWR: memory write, a command transfer alone; its pixel stream is DATA (R378) (R360). -/
def execColorRamwr (s : State) : Host.Outcome State Fault Refusal :=
  emitColor s.cop.ramwr [] s

/-- MADCTL: memory access control (R361). -/
def execColorMadctl (a : Byte) (s : State) : Host.Outcome State Fault Refusal :=
  emitColor s.cop.madctl [a] s

/-- COLMOD: the interface pixel format (R362). -/
def execColorColmod (a : Byte) (s : State) : Host.Outcome State Fault Refusal :=
  emitColor s.cop.colmod [a] s

/-- RAMCTRL: RAM control (R363). -/
def execColorRamctrl (params : List Byte) (s : State) : Host.Outcome State Fault Refusal :=
  emitColor s.cop.ramctrl params s

/-- RGBCTRL: RGB interface control (R364). -/
def execColorRgbctrl (params : List Byte) (s : State) : Host.Outcome State Fault Refusal :=
  emitColor s.cop.rgbctrl params s

/-- PORCTRL: porch setting (R365). -/
def execColorPorctrl (params : List Byte) (s : State) : Host.Outcome State Fault Refusal :=
  emitColor s.cop.porctrl params s

/-- GCTRL: gate control (R366). -/
def execColorGctrl (a : Byte) (s : State) : Host.Outcome State Fault Refusal :=
  emitColor s.cop.gctrl [a] s

/-- DGMEN: digital gamma enable (R367). -/
def execColorDgmen (a : Byte) (s : State) : Host.Outcome State Fault Refusal :=
  emitColor s.cop.dgmen [a] s

/-- VCOMS: the VCOM setting (R368). -/
def execColorVcoms (a : Byte) (s : State) : Host.Outcome State Fault Refusal :=
  emitColor s.cop.vcoms [a] s

/-- LCMCTRL: LCM control (R369). -/
def execColorLcmctrl (a : Byte) (s : State) : Host.Outcome State Fault Refusal :=
  emitColor s.cop.lcmctrl [a] s

/-- VDVVRHEN: VDV and VRH command enable (R370). -/
def execColorVdvvrhen (a : Byte) (s : State) : Host.Outcome State Fault Refusal :=
  emitColor s.cop.vdvvrhen [a] s

/-- VRHS: VRH set (R371). -/
def execColorVrhs (a : Byte) (s : State) : Host.Outcome State Fault Refusal :=
  emitColor s.cop.vrhs [a] s

/-- VDVS: VDV set (R372). -/
def execColorVdvs (a : Byte) (s : State) : Host.Outcome State Fault Refusal :=
  emitColor s.cop.vdvs [a] s

/-- FRCTRL2: frame rate control (R373). -/
def execColorFrctrl2 (a : Byte) (s : State) : Host.Outcome State Fault Refusal :=
  emitColor s.cop.frctrl2 [a] s

/-- PWCTRL1: power control 1 (R374). -/
def execColorPwctrl1 (params : List Byte) (s : State) : Host.Outcome State Fault Refusal :=
  emitColor s.cop.pwctrl1 params s

/-- CMD2EN: command 2 enable (R375). -/
def execColorCmd2en (params : List Byte) (s : State) : Host.Outcome State Fault Refusal :=
  emitColor s.cop.cmd2en params s

/-- PVGAMCTRL: positive gamma table (R376). -/
def execColorPvgamctrl (params : List Byte) (s : State) : Host.Outcome State Fault Refusal :=
  emitColor s.cop.pvgamctrl params s

/-- NVGAMCTRL: negative gamma table (R377). -/
def execColorNvgamctrl (params : List Byte) (s : State) : Host.Outcome State Fault Refusal :=
  emitColor s.cop.nvgamctrl params s

/-- A pixel stream as one data transfer, byte for byte (R111, R378); none when it is empty (R104). -/
def execColorData (pixels : List Byte) (s : State) : Host.Outcome State Fault Refusal :=
  runColor false (.ok (if pixels = [] then [] else [dat pixels])) s

end Sys2Proof.Machine
end

