-- ==== Sys2Proof/Machine/Fill.lean ====
section
/-!
DEFINITION. The fill helper (45_fill.md): the host operation `fill`, a sequence of COLOR writes from a chunk
buffer, and its rejection on MONO (R226).
-/

namespace Sys2Proof.Machine

/-- The chunk buffer: `count` copies of the colour's bytes (R442). -/
def fillChunk (count : Nat) (color : List Byte) : List Byte := (List.replicate count color).flatten

/-- The rectangle of an inner write of height `h`: the whole width, the chunk buffer as declared size (R441). -/
def fillRect (cfg : ColorCfg) (rows h : Nat) : Rect :=
  { width := cfg.width.toNat, height := h, pitch := cfg.width.toNat,
    bufSize := cfg.width.toNat * rows * cfg.pixelFormat.bytes }

/-- FILL_LOOP from row `yf` on (R441): full COLOR writes of `rows` rows, the last one clipped, up to the first
whose result is not Ok. `fuel` bounds the writes; every write that succeeds covers at least one row. -/
def fillLoop (op : ColorOps) (cfg : ColorCfg) (rows : Nat) : (fuel yf : Nat) → Plan
  | 0, _ => .ok []
  | fuel + 1, yf =>
    if cfg.height.toNat ≤ yf then .ok []
    else
      let h := min rows (cfg.height.toNat - yf)
      .after [.set (.yf yf)]
        ((colorWritePlan op cfg 0 yf (fillRect cfg rows h)).andThen (fillLoop op cfg rows fuel (yf + h)))

/-- COLOR fill after the phase gate (R440). -/
def fillPlan (k : Consts) (op : ColorOps) (cfg : ColorCfg) (color : List Byte) : Plan :=
  if color.length ≠ cfg.pixelFormat.bytes then .raise .geometryViolation
  else .after [.set (.pix (fillChunk (cfg.width.toNat * k.fillChunkRows) color))]
    (fillLoop op cfg k.fillChunkRows cfg.height.toNat 0)

/-- COLOR fill (R440). -/
def execColorFill (color : List Byte) (s : State) : Host.Outcome State Fault Refusal :=
  runColor false (gate s.color.regs (fillPlan s.k s.cop s.ccfg color)) s

/-- MONO fill: rejected in every phase (R226). -/
def execMonoFill (_color : List Byte) (s : State) : Host.Outcome State Fault Refusal :=
  runMono false (.raise .unsupportedOperation) s

end Sys2Proof.Machine
end

