-- ==== Sys2Proof/Machine/MonoWire.lean ====
section
/-!
DEFINITION. The MONO wire rows (41_mono_commands.md): each is the emission of that command by the MONO
instance, outside a host operation, as one transfer (R104, R156; log 3). Byte values come from the opcode
record of the state (R160). If the transfer fails, the updates of R505 apply as for any operation.
-/

namespace Sys2Proof.Machine

/-- A wire command of the MONO instance: one command transfer, then what its success means for a shadow. -/
def emitMono (bytes : List Byte) (after : List Micro) (s : State) : Host.Outcome State Fault Refusal :=
  runMono false (.ok (cmd bytes :: after)) s

/-- LOWCOL: the low nibble of a column (R260). -/
def execMonoLowcol (l : BitVec 4) (s : State) : Host.Outcome State Fault Refusal :=
  emitMono [lowcolByte s.mop l] [] s

/-- HIGHCOL: the high nibble of a column (R261). -/
def execMonoHighcol (h : BitVec 4) (s : State) : Host.Outcome State Fault Refusal :=
  emitMono [highcolByte s.mop h] [] s

/-- MEMMODE: the memory addressing mode (R262). -/
def execMonoMemmode (a : Byte) (s : State) : Host.Outcome State Fault Refusal :=
  emitMono [s.mop.memmode, a] [] s

/-- COLADDR: a column range (R263). -/
def execMonoColaddr (a b : Byte) (s : State) : Host.Outcome State Fault Refusal :=
  emitMono [s.mop.coladdr, a, b] [] s

/-- PAGEADDR: a page range (R264). -/
def execMonoPageaddr (a b : Byte) (s : State) : Host.Outcome State Fault Refusal :=
  emitMono [s.mop.pageaddr, a, b] [] s

/-- STARTLINE: the display start line (R265). -/
def execMonoStartline (line : BitVec 6) (s : State) : Host.Outcome State Fault Refusal :=
  emitMono [startlineByte s.mop line] [] s

/-- CONTRAST: the contrast (R266). -/
def execMonoContrast (a : Byte) (s : State) : Host.Outcome State Fault Refusal :=
  emitMono [s.mop.contrast, a] [] s

/-- CHARGEPUMP: the SSD1306 and SSD1309 charge pump (R267). -/
def execMonoChargepump (a : Byte) (s : State) : Host.Outcome State Fault Refusal :=
  emitMono [s.mop.chargepump, a] [] s

/-- SEGREMAP: the segment remap (R268). -/
def execMonoSegremap (r : Bool) (s : State) : Host.Outcome State Fault Refusal :=
  emitMono [segremapByte s.mop r] [] s

/-- NORMAL: normal polarity; `pf` is written by init and set_pixel_format only (R40) (R269). -/
def execMonoNormal (s : State) : Host.Outcome State Fault Refusal :=
  emitMono [s.mop.normal] [] s

/-- INVERSE: inverted polarity; `pf` is not written, as for NORMAL (R270). -/
def execMonoInverse (s : State) : Host.Outcome State Fault Refusal :=
  emitMono [s.mop.inverse] [] s

/-- MUX: the multiplex ratio (R271). -/
def execMonoMux (a : Byte) (s : State) : Host.Outcome State Fault Refusal :=
  emitMono [s.mop.mux, a] [] s

/-- DCDC: the SH1106 charge pump (R272). -/
def execMonoDcdc (a : Byte) (s : State) : Host.Outcome State Fault Refusal :=
  emitMono [s.mop.dcdc, a] [] s

/-- IREF: the internal current reference (R273). -/
def execMonoIref (a : Byte) (s : State) : Host.Outcome State Fault Refusal :=
  emitMono [s.mop.iref, a] [] s

/-- DISPOFF: display off; once sent, `disp_on` is false (R38) (R274). -/
def execMonoDispoff (s : State) : Host.Outcome State Fault Refusal :=
  emitMono [s.mop.dispoff] [.set (.dispOn false)] s

/-- DISPON: display on; once sent, `disp_on` is true (R38) (R275). -/
def execMonoDispon (s : State) : Host.Outcome State Fault Refusal :=
  emitMono [s.mop.dispon] [.set (.dispOn true)] s

/-- PAGESTART: a page start (R276). -/
def execMonoPagestart (p : BitVec 3) (s : State) : Host.Outcome State Fault Refusal :=
  emitMono [pagestartByte s.mop p] [] s

/-- COMSCAN: the COM scan direction (R277). -/
def execMonoComscan (f : Bool) (s : State) : Host.Outcome State Fault Refusal :=
  emitMono [comscanByte s.mop f] [] s

/-- DISPOFFSET: the display offset (R278). -/
def execMonoDispoffset (a : Byte) (s : State) : Host.Outcome State Fault Refusal :=
  emitMono [s.mop.dispoffset, a] [] s

/-- CLOCKDIV: the clock divider (R279). -/
def execMonoClockdiv (a : Byte) (s : State) : Host.Outcome State Fault Refusal :=
  emitMono [s.mop.clockdiv, a] [] s

/-- PRECHARGE: the precharge period (R280). -/
def execMonoPrecharge (a : Byte) (s : State) : Host.Outcome State Fault Refusal :=
  emitMono [s.mop.precharge, a] [] s

/-- COMPINS: the COM pad configuration (R281). -/
def execMonoCompins (a : Byte) (s : State) : Host.Outcome State Fault Refusal :=
  emitMono [s.mop.compins, a] [] s

/-- VCOMH: the VCOMH deselect level (R282). -/
def execMonoVcomh (a : Byte) (s : State) : Host.Outcome State Fault Refusal :=
  emitMono [s.mop.vcomh, a] [] s

/-- SOFT_RESET: the open parameter string as one transfer, none when it is empty (R283). -/
def execMonoSoftReset (s : State) : Host.Outcome State Fault Refusal :=
  runMono false (.ok (monoSoftResetXfer s.k)) s

/-- A pixel payload as one data transfer, byte for byte (R111, R284); none when it is empty (R104). -/
def execMonoData (pixels : List Byte) (s : State) : Host.Outcome State Fault Refusal :=
  runMono false (.ok (if pixels = [] then [] else [dat pixels])) s

end Sys2Proof.Machine
end

