-- ==== Sys2Proof/Machine/Dispatch.lean ====
section
/-!
DEFINITION. exec: one arm per instruction, each one call of its meaning.
-/

namespace Sys2Proof.Machine

def exec (i : Instr) (s : State) : Host.Outcome State Fault Refusal :=
  match i with
  | .monoInit => Sys2Proof.Machine.execMonoInit s
  | .colorInit => Sys2Proof.Machine.execColorInit s
  | .monoWrite x y desc pix => Sys2Proof.Machine.execMonoWrite x y desc pix s
  | .colorWrite x y desc pix => Sys2Proof.Machine.execColorWrite x y desc pix s
  | .monoSetContrast v => Sys2Proof.Machine.execMonoSetContrast v s
  | .colorSetContrast v => Sys2Proof.Machine.execColorSetContrast v s
  | .monoSetPixelFormat f => Sys2Proof.Machine.execMonoSetPixelFormat f s
  | .colorSetPixelFormat f => Sys2Proof.Machine.execColorSetPixelFormat f s
  | .monoGetCapabilities => Sys2Proof.Machine.execMonoGetCapabilities s
  | .colorGetCapabilities => Sys2Proof.Machine.execColorGetCapabilities s
  | .monoBlankingOn => Sys2Proof.Machine.execMonoBlankingOn s
  | .colorBlankingOn => Sys2Proof.Machine.execColorBlankingOn s
  | .monoBlankingOff => Sys2Proof.Machine.execMonoBlankingOff s
  | .colorBlankingOff => Sys2Proof.Machine.execColorBlankingOff s
  | .monoSetBrightness b => Sys2Proof.Machine.execMonoSetBrightness b s
  | .colorSetBrightness b => Sys2Proof.Machine.execColorSetBrightness b s
  | .monoSetOrientation o => Sys2Proof.Machine.execMonoSetOrientation o s
  | .colorSetOrientation o => Sys2Proof.Machine.execColorSetOrientation o s
  | .monoSuspend => Sys2Proof.Machine.execMonoSuspend s
  | .colorSuspend => Sys2Proof.Machine.execColorSuspend s
  | .monoResume => Sys2Proof.Machine.execMonoResume s
  | .colorResume => Sys2Proof.Machine.execColorResume s
  | .monoFill color => Sys2Proof.Machine.execMonoFill color s
  | .colorFill color => Sys2Proof.Machine.execColorFill color s
  | .monoLowcol l => Sys2Proof.Machine.execMonoLowcol l s
  | .monoHighcol h => Sys2Proof.Machine.execMonoHighcol h s
  | .monoMemmode a => Sys2Proof.Machine.execMonoMemmode a s
  | .monoColaddr a b => Sys2Proof.Machine.execMonoColaddr a b s
  | .monoPageaddr a b => Sys2Proof.Machine.execMonoPageaddr a b s
  | .monoStartline line => Sys2Proof.Machine.execMonoStartline line s
  | .monoContrast a => Sys2Proof.Machine.execMonoContrast a s
  | .monoChargepump a => Sys2Proof.Machine.execMonoChargepump a s
  | .monoSegremap r => Sys2Proof.Machine.execMonoSegremap r s
  | .monoNormal => Sys2Proof.Machine.execMonoNormal s
  | .monoInverse => Sys2Proof.Machine.execMonoInverse s
  | .monoMux a => Sys2Proof.Machine.execMonoMux a s
  | .monoDcdc a => Sys2Proof.Machine.execMonoDcdc a s
  | .monoIref a => Sys2Proof.Machine.execMonoIref a s
  | .monoDispoff => Sys2Proof.Machine.execMonoDispoff s
  | .monoDispon => Sys2Proof.Machine.execMonoDispon s
  | .monoPagestart p => Sys2Proof.Machine.execMonoPagestart p s
  | .monoComscan f => Sys2Proof.Machine.execMonoComscan f s
  | .monoDispoffset a => Sys2Proof.Machine.execMonoDispoffset a s
  | .monoClockdiv a => Sys2Proof.Machine.execMonoClockdiv a s
  | .monoPrecharge a => Sys2Proof.Machine.execMonoPrecharge a s
  | .monoCompins a => Sys2Proof.Machine.execMonoCompins a s
  | .monoVcomh a => Sys2Proof.Machine.execMonoVcomh a s
  | .monoSoftReset => Sys2Proof.Machine.execMonoSoftReset s
  | .monoData pixels => Sys2Proof.Machine.execMonoData pixels s
  | .colorSwreset => Sys2Proof.Machine.execColorSwreset s
  | .colorSlpin => Sys2Proof.Machine.execColorSlpin s
  | .colorSlpout => Sys2Proof.Machine.execColorSlpout s
  | .colorInvoff => Sys2Proof.Machine.execColorInvoff s
  | .colorInvon => Sys2Proof.Machine.execColorInvon s
  | .colorGamset a => Sys2Proof.Machine.execColorGamset a s
  | .colorDispoff => Sys2Proof.Machine.execColorDispoff s
  | .colorDispon => Sys2Proof.Machine.execColorDispon s
  | .colorCaset xs xe => Sys2Proof.Machine.execColorCaset xs xe s
  | .colorRaset ys ye => Sys2Proof.Machine.execColorRaset ys ye s
  | .colorRamwr => Sys2Proof.Machine.execColorRamwr s
  | .colorMadctl a => Sys2Proof.Machine.execColorMadctl a s
  | .colorColmod a => Sys2Proof.Machine.execColorColmod a s
  | .colorRamctrl params => Sys2Proof.Machine.execColorRamctrl params s
  | .colorRgbctrl params => Sys2Proof.Machine.execColorRgbctrl params s
  | .colorPorctrl params => Sys2Proof.Machine.execColorPorctrl params s
  | .colorGctrl a => Sys2Proof.Machine.execColorGctrl a s
  | .colorDgmen a => Sys2Proof.Machine.execColorDgmen a s
  | .colorVcoms a => Sys2Proof.Machine.execColorVcoms a s
  | .colorLcmctrl a => Sys2Proof.Machine.execColorLcmctrl a s
  | .colorVdvvrhen a => Sys2Proof.Machine.execColorVdvvrhen a s
  | .colorVrhs a => Sys2Proof.Machine.execColorVrhs a s
  | .colorVdvs a => Sys2Proof.Machine.execColorVdvs a s
  | .colorFrctrl2 a => Sys2Proof.Machine.execColorFrctrl2 a s
  | .colorPwctrl1 params => Sys2Proof.Machine.execColorPwctrl1 params s
  | .colorCmd2en params => Sys2Proof.Machine.execColorCmd2en params s
  | .colorPvgamctrl params => Sys2Proof.Machine.execColorPvgamctrl params s
  | .colorNvgamctrl params => Sys2Proof.Machine.execColorNvgamctrl params s
  | .colorData pixels => Sys2Proof.Machine.execColorData pixels s

end Sys2Proof.Machine
end

