-- ==== Sys2Proof/Machine/Step.lean ====
section
/-!
DEFINITION. The step: the host's oldest pending call is decoded and run to its end (R31). With no call pending
nothing happens (R517). How a request gets to be pending is the host's business (log 3).
-/

namespace Sys2Proof.Machine

/-- The state once a step has taken the oldest call. -/
def State.taken (s : State) : State := { s with calls := s.calls.drop 1 }

/-- One step. -/
def step (s : State) : Host.Outcome State Fault Refusal :=
  match s.calls with
  | [] => .next s
  | r :: _ =>
    match decode s.mcfg.chip r with
    | .error e => .refused (.undecodable e)
    | .ok i => exec i s.taken

/-- A state with a table word's request as its oldest pending call: the host calling (or, for a wire row, the
unit emitting) that instruction next (log 8). -/
def State.withFetchWord (s : State) (nbits w : Nat) : State :=
  { s with calls := tableRequest nbits w :: s.calls }

end Sys2Proof.Machine
end

