-- ==== Sys2Proof/Machine/Boot.lean ====
section
/-!
DEFINITION. Construction of the instances from a configuration (R600, R602) and the well-formedness a
configuration must meet, without which no instance exists (R45, R46, R55, R67, R509 (b)).
-/

namespace Sys2Proof.Machine

/-- `cfg.chip` from the two chip-quirk flags; both set is refused (R45, D23). -/
def chipOfFlags (sh1106 ssd1309 : Bool) : Option Chip :=
  match sh1106, ssd1309 with
  | true, true => none
  | true, false => some .sh1106
  | false, true => some .ssd1309
  | false, false => some .ssd1306

/-- A MONO configuration the model admits (R46). -/
def monoCfgOk (cfg : MonoCfg) : Bool :=
  1 ≤ cfg.width.toNat && cfg.width.toNat + cfg.segmentOffset.toNat ≤ 256
    && 8 ≤ cfg.height.toNat && cfg.height.toNat ≤ 64 && cfg.height.toNat % 8 == 0

/-- The product of the backlight duty fits 32 bits (R67). -/
def pwmOk : Option PwmHandle → Bool
  | none => true
  | some h => h.period * 255 < 2 ^ 32

/-- A COLOR configuration the model admits (R55, R67). -/
def colorCfgOk (k : Consts) (cfg : ColorCfg) : Bool :=
  1 ≤ cfg.width.toNat && 1 ≤ cfg.height.toNat && 1 ≤ k.fillChunkRows
    && cfg.width.toNat * k.fillChunkRows * cfg.pixelFormat.bytes ≤ k.fillBufBytes && pwmOk cfg.blPwm

/-- Construction of the board's instances (R600): it performs no action, and refuses a configuration that is
not well formed. DESIGN CHOICE (log 33): R600 constructs one instance from its own configuration; the model
constructs the board's two together, so either ill-formed configuration refuses both, MONO's being reported
first. -/
def construct (b : BoardCfg) : Host.Outcome State Fault Refusal :=
  if !monoCfgOk b.mono then .refused .badMonoConfiguration
  else if !colorCfgOk b.k b.color then .refused .badColorConfiguration
  else .next (State.ofBoard b)

/-- Construction from the two chip-quirk flags, whatever chip the record names (R45). -/
def constructFlags (sh1106 ssd1309 : Bool) (b : BoardCfg) : Host.Outcome State Fault Refusal :=
  match chipOfFlags sh1106 ssd1309 with
  | none => .refused .bothChipFlags
  | some chip => construct { b with mono := { b.mono with chip := chip } }

end Sys2Proof.Machine
end

