-- ==== Sys2Proof/Machine/Bus.lean ====
section
/-!
DEFINITION. What a transfer looks like on its bus (R105, R106), as a function of the bus and the transfer. No
operation reads it (R107): the trace of an operation is the same on both buses. The framing is the spec's
general knowledge: PRESUMED (log 13).
-/

namespace Sys2Proof.Machine

/-- An event on a bus. -/
inductive BusEvent where
  | start
  | stop
  | byte (b : Byte)
  /-- The SPI data/command line, true for high. -/
  | dataCommand (high : Bool)
  | select
  | deselect
  /-- One SPI bit clocked out. -/
  | bit (b : Bool)
deriving DecidableEq, Repr

/-- The I2C control byte: 0x00 for a command, 0x40 for data (R105). -/
def controlByte : Kind → Byte
  | .cmd => 0x00
  | .data => 0x40

/-- The I2C address byte of a write: `(addr << 1) | 0` (R105). -/
def addressByte (addr : BitVec 7) : Byte := addr ++ (0 : BitVec 1)

/-- The bits of a byte, most significant first (R106). -/
def msbFirst (b : Byte) : List Bool :=
  [b.getLsbD 7, b.getLsbD 6, b.getLsbD 5, b.getLsbD 4, b.getLsbD 3, b.getLsbD 2, b.getLsbD 1, b.getLsbD 0]

/-- The frame of one transfer: one I2C write transaction (R105), or one SPI chip-select assertion with the
data/command line low for a command and high for data (R106). DESIGN CHOICE (log 13): R106 does not place the
data/command line against the chip select; the model drives it before the select. -/
def frame (bus : Bus) (f : Kind) (s : List Byte) : List BusEvent :=
  match bus with
  | .i2c addr =>
    [.start, .byte (addressByte addr), .byte (controlByte f)] ++ s.map .byte ++ [.stop]
  | .spi =>
    [.dataCommand (f == .data), .select] ++ (s.flatMap msbFirst).map .bit ++ [.deselect]

/-- What the completed transfers of a trace look like on the bus, in order (R119). -/
def busHistory (bus : Bus) (trace : List Entry) : List BusEvent :=
  trace.flatMap fun e =>
    match e with
    | ⟨.xfer f s, true⟩ => frame bus f s
    | _ => []

end Sys2Proof.Machine
end

