-- ==== Sys2Proof/Safety.lean ====
section
/-!
DEFINITION. The terms claims are stated in: when an instance is between operations, what it holds after performing
a given list of actions, and the invariant of the machine.
-/

namespace Sys2Proof.Machine

/-! ## Between operations -/

/-- No operation is running: the working registers hold no value (R32, R33, R66). -/
def Regs.idle (q : Regs) : Prop :=
  q.apc = none ∧ q.n = none ∧ q.r = none ∧ q.yf = none ∧ q.pix = none

/-! ## Lists of performed actions -/

/-- A completed command transfer. -/
def cmdE (s : List Byte) : Entry := ⟨.xfer .cmd s, true⟩

/-- A completed data transfer. -/
def datE (s : List Byte) : Entry := ⟨.xfer .data s, true⟩

/-- A line driven. -/
def gpioE (l : Line) (v : Level) : Entry := ⟨.gpio l v, true⟩

/-- The PWM set. -/
def pwmE (period duty : Nat) : Entry := ⟨.pwm period duty, true⟩

/-- A delay waited. -/
def delayE (t : Nat) : Entry := ⟨.delay t, true⟩

/-- A COLOR command with its parameters, completed (R301). -/
def cmdpE (op : Byte) (params : List Byte) : List Entry :=
  cmdE [op] :: if params = [] then [] else [datE params]

/-- Whether an action is a transfer. -/
def Act.isXfer : Act → Bool
  | .xfer _ _ => true
  | .gpio _ _ => false
  | .pwm _ _ => false
  | .delay _ => false

/-- How many transfers are in a list of performed actions. -/
def xferCount (es : List Entry) : Nat := es.countP fun e => e.act.isXfer

/-- The `j`-th answer a draw will give, from 0. -/
def Draw.answer (d : Draw) (j : Nat) : Bool := d.script.getD j d.rest

/-- A draw after `n` answers. -/
def Draw.dropped (d : Draw) (n : Nat) : Draw := { d with script := d.script.drop n }

/-- The transport will return Ok to every transfer of a list. -/
def Env.okFor (e : Env) (es : List Entry) : Prop := ∀ j, j < xferCount es → e.xfer.answer j = true

/-- An instance after performing a list of actions: they stand at the end of its trace, its transport has
answered for each transfer, and its panel has taken them in order. -/
def Inst.after {π : Type} (sink : π → Entry → π) (es : List Entry) (q : Inst π) : Inst π :=
  { regs := { q.regs with trace := q.regs.trace ++ es },
    env := { q.env with xfer := q.env.xfer.dropped (xferCount es) },
    panel := es.foldl sink q.panel }

/-- The sink of a board's MONO panel. -/
def State.monoSink (s : State) : MonoPanel → Entry → MonoPanel := MonoPanel.receive s.k s.mcfg

/-- The sink of a board's COLOR panel. -/
def State.colorSink (s : State) : ColorPanel → Entry → ColorPanel := ColorPanel.receive s.ccfg

/-- The state after a MONO operation that performed `es`, wrote the registers as `upd` says and handed back
`r`; everything else is as before. -/
def State.monoDid (s : State) (es : List Entry) (upd : Regs → Regs) (r : Result) : State :=
  let q := s.mono.after s.monoSink es
  { s with mono := { q with regs := upd q.regs }, answer := some (.result r) }

/-- The state after a COLOR operation, as for MONO. -/
def State.colorDid (s : State) (es : List Entry) (upd : Regs → Regs) (r : Result) : State :=
  let q := s.color.after s.colorSink es
  { s with color := { q with regs := upd q.regs }, answer := some (.result r) }

/-- The state after an operation that did nothing but hand back `r`. -/
def State.answered (s : State) (r : Result) : State := { s with answer := some (.result r) }

/-- The MONO instance's readiness answers for init taken. -/
def State.monoAsked (s : State) : State :=
  { s with mono := { s.mono with env := askAll (monoHandles s.mcfg) s.mono.env } }

/-- The COLOR instance's readiness answers for init taken. -/
def State.colorAsked (s : State) : State :=
  { s with color := { s.color with env := askAll (colorHandles s.ccfg) s.color.env } }

/-- The COLOR instance's readiness answer of the backlight PWM taken. -/
def State.pwmAsked (s : State) : State :=
  { s with color := { s.color with env := askAll (pwmHandles s.ccfg) s.color.env } }

/-- No register is written beside the trace. -/
def noWrites (q : Regs) : Regs := q

/-! ## The unit of an instruction -/

/-- The unit whose instance an instruction addresses: the port it is spelled on. -/
def unitOf (i : Instr) : UnitKind :=
  match (encode i).port with
  | .host u => u
  | .cmd u => u
  | .data u => u
  | .param => .mono

/-! ## The invariant -/

/-- What holds of the MONO instance between operations. -/
structure MonoInv (q : Inst MonoPanel) : Prop where
  idle : q.regs.idle
  /-- `pf` is one of the two polarities (R40). -/
  format : isMonoFormat q.regs.pf = true
  /-- Before any init the panel's state is unknown (R37). -/
  uninit : q.regs.phase = .uninit → q.regs.indeterminate = true
  /-- A Ready instance has had its display switched (R201). -/
  ready : q.regs.phase = .ready → q.regs.dispOn.isSome = true
  /-- The COLOR registers hold nothing (R39, R41, R42). -/
  unused : q.regs.asleep = none ∧ q.regs.backlightLevel = none ∧ q.regs.blLine = none ∧ q.regs.pwmSetting = none
  store : q.panel.cells.wf = true

/-- What holds of the COLOR instance between operations. -/
structure ColorInv (cfg : ColorCfg) (q : Inst ColorPanel) : Prop where
  idle : q.regs.idle
  /-- `pf` is the compiled format (R40). -/
  format : q.regs.pf = cfg.pixelFormat.toFormat
  uninit : q.regs.phase = .uninit → q.regs.indeterminate = true ∧ q.regs.backlightLevel = none
  /-- A Ready instance has been woken and had its display switched (R302, R305). -/
  ready : q.regs.phase = .ready → q.regs.dispOn.isSome = true ∧ q.regs.asleep.isSome = true
  /-- COLOR has no supply gate (R405). -/
  unused : q.regs.supplyLine = none
  /-- The duty never exceeds the period (R411). -/
  duty : ∀ p d, q.regs.pwmSetting = some (p, d) → d ≤ p
  store : q.panel.cells.wf = true

/-- The invariant of the machine. -/
structure State.Inv (s : State) : Prop where
  mono : MonoInv s.mono
  color : ColorInv s.ccfg s.color

/-! ## Traces and shadows -/

/-- The last level a trace drives on a line, or none (R42). -/
def lastLevel (l : Line) (trace : List Entry) : Option Level :=
  trace.foldl (fun acc e => match e.act with
    | .gpio l' v => if l' = l then some v else acc
    | _ => acc) none

/-- The last PWM setting of a trace, or none (R42). -/
def lastPwm (trace : List Entry) : Option (Nat × Nat) :=
  trace.foldl (fun acc e => match e.act with
    | .pwm p d => some (p, d)
    | _ => acc) none

/-- Every line shadow is what the trace last drove (R42). -/
def Regs.shadowsMatch (q : Regs) : Prop :=
  q.resetLine = lastLevel .reset q.trace ∧ q.supplyLine = lastLevel .supply q.trace
    ∧ q.blLine = lastLevel .backlight q.trace ∧ q.pwmSetting = lastPwm q.trace

/-- Every transfer of a trace carries at least one byte (R104). -/
def noEmptyTransfer (trace : List Entry) : Prop :=
  ∀ e ∈ trace, ∀ f s, e.act = .xfer f s → s ≠ []

/-- Only a transfer can have failed (R15, D29). -/
def onlyTransfersFail (trace : List Entry) : Prop :=
  ∀ e ∈ trace, e.ok = false → e.act.isXfer = true

end Sys2Proof.Machine
end

