-- ==== Sys2Proof/Certificates/Slice0/Obligations.lean ====
section
/-!
DEFINITION. The statements for the provers. `Regs.idle` is the premise that an instance is between operations
(its working registers hold no value, R32, R33); it is part of the invariant `State.Inv`, which every step
keeps (`StepKeepsInvariant`). Hypotheses on an instance's transport (`Env.okFor`) say only that the transfers
the statement lists are taken; what happens when one is not is `FailedTransferAbandons`.
-/

open Sys2Proof Sys2Proof.Machine

/-! ## Encoding -/

/-- Decoding what the encoder writes gives the instruction back, for every instruction the encoding spaces can
spell on a panel of that chip. The layout of HOST operands is the model's (log 4), the opcode values the spec's
general knowledge (log 6). -/
def Obligations.DecodeOfEncode : Prop :=
  ∀ (chip : Chip) (i : Instr), i.wellFormed chip = true → decode chip (encode i) = .ok i

/-- A request that decodes is the one spelling of its instruction: no bit of it was dropped. -/
def Obligations.EncodeOfDecode : Prop :=
  ∀ (chip : Chip) (r : Request) (i : Instr), decode chip r = .ok i → encode i = r ∧ i.wellFormed chip = true

/-- Host op codes 0x00 and 0x0D to 0xFF, and Format and Orientation codes of 4 or more, are refused by name, as the
spec's own assignment of codes (92_eei_decisions.md D1) says. -/
def Obligations.UndefinedCodesRefused : Prop :=
  (∀ (chip : Chip) (u : UnitKind) (op : Byte) (args : List Byte), op = 0 ∨ 12 < op.toNat →
    decode chip ⟨.host u, op :: args⟩ = .error (.undefinedHostOp op)) ∧
  (∀ (chip : Chip) (u : UnitKind) (c : Byte), 4 ≤ c.toNat →
    decode chip ⟨.host u, [0x04, c]⟩ = .error (.undefinedFormat c) ∧
    decode chip ⟨.host u, [0x09, c]⟩ = .error (.undefinedOrientation c))

/-- A MONO command takes from its stream exactly as many bytes as its first byte tells (R157, the spec's general
knowledge). -/
def Obligations.MonoCommandLengths : Prop :=
  ∀ (chip : Chip) (b : Byte) (rest rest' : List Byte) (i : Instr),
    decodeMonoByte chip b rest = some (i, rest') →
      ∃ args, rest = args ++ rest' ∧ args.length + 1 = monoCmdLen b

/-- A few words written out from the spec's encodings decode to the instructions they stand for. -/
def Obligations.WrittenOutWordsDecode : Prop :=
  decode .ssd1306 ⟨.host .mono, [0x01]⟩ = .ok .monoInit ∧
  decode .ssd1306 ⟨.host .color, [0x08, 0x80]⟩ = .ok (.colorSetBrightness 0x80) ∧
  decode .ssd1306 ⟨.cmd .mono, [0x21, 0x00, 0x7F]⟩ = .ok (.monoColaddr 0x00 0x7F) ∧
  decode .sh1106 ⟨.cmd .mono, [0xB2]⟩ = .ok (.monoPagestart 2) ∧
  decode .sh1106 ⟨.cmd .mono, [0xAD, 0x8B]⟩ = .ok (.monoDcdc 0x8B) ∧
  decode .ssd1309 ⟨.cmd .mono, [0xAD, 0x30]⟩ = .ok (.monoIref 0x30) ∧
  decode .ssd1306 ⟨.cmd .color, [0x2A, 0x00, 0x0A, 0x00, 0x3B]⟩ = .ok (.colorCaset 10 59)

/-! ## Step, construction, reset -/

/-- A step takes the host's oldest call: it runs the instruction the call decodes to, or refuses a call the decoder
refuses; with no call pending nothing happens. -/
def Obligations.StepRunsOldestCall : Prop :=
  (∀ (s : State) (r : Request) (rest : List Request) (i : Instr), s.calls = r :: rest →
    decode s.mcfg.chip r = .ok i → step s = exec i { s with calls := rest }) ∧
  (∀ (s : State) (r : Request) (rest : List Request) (e : DecodeError), s.calls = r :: rest →
    decode s.mcfg.chip r = .error e → step s = .refused (.undecodable e)) ∧
  (∀ s : State, s.calls = [] → step s = .next s)

/-- Construction gives an instance its reset state exactly for the configurations the spec's bounds admit (its
decisions D29, D34, D35), and refuses the others by name. That the board's two instances are constructed together, MONO's
refusal first, is the model's choice (log 33). -/
def Obligations.ConstructionAdmitsWellFormed : Prop :=
  ∀ b : BoardCfg,
    let m := b.mono
    let c := b.color
    let monoOk := 1 ≤ m.width.toNat ∧ m.width.toNat + m.segmentOffset.toNat ≤ 256 ∧ 8 ≤ m.height.toNat ∧
      m.height.toNat ≤ 64 ∧ m.height.toNat % 8 = 0
    let colorOk := 1 ≤ c.width.toNat ∧ 1 ≤ c.height.toNat ∧ 1 ≤ b.k.fillChunkRows ∧
      c.width.toNat * b.k.fillChunkRows * c.pixelFormat.bytes ≤ b.k.fillBufBytes ∧
      ∀ h, c.blPwm = some h → h.period * 255 < 2 ^ 32
    (monoOk → colorOk → construct b = .next (State.ofBoard b)) ∧
    (¬ monoOk → construct b = .refused .badMonoConfiguration) ∧
    (monoOk → ¬ colorOk → construct b = .refused .badColorConfiguration)

/-- Right after construction, whatever the configuration, every register holds the value the spec lists for reset (most
of them the spec's own choices, D14, D18, D30, D49), and no action has been performed. -/
def Obligations.ResetValues : Prop :=
  ∀ b : BoardCfg, ∀ s, s = State.ofBoard b →
    s.mono.regs = {
      phase := .uninit, indeterminate := true, dispOn := none, asleep := none,
      pf := if b.mono.colorInversion then .monoInverted else .monoNormal, backlightLevel := none,
      resetLine := none, supplyLine := none, blLine := none, pwmSetting := none, apc := none, n := none,
      r := none, yf := none, pix := none, trace := [] } ∧
    s.color.regs = { s.mono.regs with
      pf := match b.color.pixelFormat with | .rgb565 => .rgb565 | .rgb888 => .rgb888 } ∧
    s.mcfg = b.mono ∧ s.ccfg = b.color ∧ s.k = b.k ∧ s.mop = b.mop ∧ s.cop = b.cop ∧ s.answer = none ∧
    s.calls = []

/-! ## Invariants -/

/-- Every state right after construction meets the invariants the next three statements keep. -/
def Obligations.InvariantsAtReset : Prop :=
  ∀ b : BoardCfg, (State.ofBoard b).Inv ∧
    (State.ofBoard b).mono.regs.shadowsMatch ∧ (State.ofBoard b).color.regs.shadowsMatch ∧
    noEmptyTransfer (State.ofBoard b).mono.regs.trace ∧ noEmptyTransfer (State.ofBoard b).color.regs.trace

/-- Every step keeps the invariant: between operations the working registers hold no value; each unit's pixel format is
one it can have; an uninitialised instance is indeterminate; a Ready one has had its display (and on COLOR its sleep
state) switched; the registers of the other unit hold nothing; the duty is within the period; and the pixel stores keep
their canonical form. -/
def Obligations.StepKeepsInvariant : Prop :=
  ∀ s t : State, s.Inv → step s = .next t → t.Inv

/-- Every step keeps the line shadows equal to what the trace last drove on each line, from whatever state they are. -/
def Obligations.StepKeepsLineShadows : Prop :=
  ∀ s t : State, s.mono.regs.shadowsMatch → s.color.regs.shadowsMatch → step s = .next t →
    t.mono.regs.shadowsMatch ∧ t.color.regs.shadowsMatch

/-- No step performs a transfer of no bytes, and only a transfer is ever marked as failed. -/
def Obligations.StepSendsNoEmptyTransfer : Prop :=
  ∀ s t : State, step s = .next t →
    ∃ es fs, t.mono.regs.trace = s.mono.regs.trace ++ es ∧ t.color.regs.trace = s.color.regs.trace ++ fs ∧
      noEmptyTransfer (es ++ fs) ∧ onlyTransfersFail (es ++ fs)

/-! ## Rules of the whole machine -/

/-- No step changes what the instances were built with, and a step takes at most the oldest call. -/
def Obligations.ConfigurationNeverChanges : Prop :=
  ∀ s t : State, step s = .next t →
    t.k = s.k ∧ t.mop = s.mop ∧ t.cop = s.cop ∧ t.mcfg = s.mcfg ∧ t.ccfg = s.ccfg ∧ t.calls = s.calls.drop 1

/-- An instruction of one unit leaves the other unit's instance, its panel included, exactly as it was. -/
def Obligations.OtherInstanceUntouched : Prop :=
  ∀ (i : Instr) (s t : State), exec i s = .next t →
    (unitOf i = .mono → t.color = s.color) ∧ (unitOf i = .color → t.mono = s.mono)

/-- What a unit does depends on nothing of the other unit: two states that agree on one instance and on what it was built
with behave the same under that unit's instructions. -/
def Obligations.UnitsDoNotInterfere : Prop :=
  (∀ (i : Instr) (s s' t : State), unitOf i = .mono → s.mono = s'.mono → s.k = s'.k → s.mop = s'.mop →
    s.mcfg = s'.mcfg → exec i s = .next t →
      ∃ t', exec i s' = .next t' ∧ t'.mono = t.mono ∧ t'.answer = t.answer) ∧
  (∀ (i : Instr) (s s' t : State), unitOf i = .color → s.color = s'.color → s.k = s'.k → s.cop = s'.cop →
    s.ccfg = s'.ccfg → exec i s = .next t →
      ∃ t', exec i s' = .next t' ∧ t'.color = t.color ∧ t'.answer = t.answer)

/-- No instruction is ever refused, and the only fault is a `write` in phase Ready whose buffer is too short: on MONO one
with fewer bytes than the effective length, on COLOR one whose declared size or actual bytes do not cover the rectangle. -/
def Obligations.OnlyShortBuffersFault : Prop :=
  ∀ (i : Instr) (s : State), (∀ ρ, exec i s ≠ .refused ρ) ∧
    ∀ f, exec i s = .fault f →
      (∃ x y d pix, i = .monoWrite x y d pix ∧ s.mono.regs.phase = .ready ∧
        pix.length < min d.bufSize.toNat (d.height.toNat * d.width.toNat / 8)) ∨
      (∃ x y d pix, i = .colorWrite x y d pix ∧ s.color.regs.phase = .ready ∧
        min d.bufSize.toNat pix.length <
          ((d.height.toNat - 1) * d.pitch.toNat + d.width.toNat) * s.ccfg.pixelFormat.bytes)

/-- What a failed transfer does, for every instruction of both units: the trace only grows; an operation either completes
all it performed, or its last action is the one failed transfer, and then `indeterminate` is set, `phase` is Failed if it
was an init and unchanged otherwise, and the result is BusTransferFailure (R505). That every byte of the panel's store then
reads as no value is the model's choice (logs 2, 18 and 31), and what a wire row's failed transfer does is its inference
(log 15). -/
def Obligations.FailedTransferAbandons : Prop :=
  (∀ (i : Instr) (s t : State), unitOf i = .mono → exec i s = .next t →
    ∃ es, t.mono.regs.trace = s.mono.regs.trace ++ es ∧
      (((∀ e ∈ es, e.ok = true) ∧ t.answer ≠ some (.result .busTransferFailure)) ∨
       ∃ fs e, es = fs ++ [e] ∧ (∀ e ∈ fs, e.ok = true) ∧ e.ok = false ∧ e.act.isXfer = true ∧
        t.answer = some (.result .busTransferFailure) ∧ t.mono.regs.indeterminate = true ∧
        t.mono.regs.phase = (if i = .monoInit then .failed else s.mono.regs.phase) ∧
        ∀ a, Memory.read t.mono.panel.cells a = none)) ∧
  (∀ (i : Instr) (s t : State), unitOf i = .color → exec i s = .next t →
    ∃ es, t.color.regs.trace = s.color.regs.trace ++ es ∧
      (((∀ e ∈ es, e.ok = true) ∧ t.answer ≠ some (.result .busTransferFailure)) ∨
       ∃ fs e, es = fs ++ [e] ∧ (∀ e ∈ fs, e.ok = true) ∧ e.ok = false ∧ e.act.isXfer = true ∧
        t.answer = some (.result .busTransferFailure) ∧ t.color.regs.indeterminate = true ∧
        t.color.regs.phase = (if i = .colorInit then .failed else s.color.regs.phase) ∧
        ∀ a, Memory.read t.color.panel.cells a = none))

/-- DeviceNotReady and UnsupportedOperation come before any action, UnsupportedOperation changes nothing but the answer,
and so does GeometryViolation but for the page guard of the SH1106 path. -/
def Obligations.ErrorsComeBeforeActions : Prop :=
  ∀ (i : Instr) (s t : State), s.mono.regs.idle → s.color.regs.idle → exec i s = .next t →
    (t.answer = some (.result .deviceNotReady) →
      t.mono.regs.trace = s.mono.regs.trace ∧ t.color.regs.trace = s.color.regs.trace) ∧
    (t.answer = some (.result .unsupportedOperation) → t = s.answered .unsupportedOperation) ∧
    (t.answer = some (.result .geometryViolation) →
      (∃ x y d pix, i = .monoWrite x y d pix ∧ s.mcfg.chip = .sh1106) ∨ t = s.answered .geometryViolation)

/-- `phase` is written by init alone, which ends in Ready with result Ok or in Failed with an error; `indeterminate` is
cleared only by a successful init; and nothing sets it but a failed transfer. -/
def Obligations.LifecycleOnlyByInit : Prop :=
  ∀ (i : Instr) (s t : State), exec i s = .next t →
    ((i ≠ .monoInit ∧ t.mono.regs.phase = s.mono.regs.phase) ∨
      (i = .monoInit ∧ t.answer = some (.result .ok) ∧ t.mono.regs.phase = .ready ∧
        t.mono.regs.indeterminate = false) ∨
      (i = .monoInit ∧ t.answer ≠ some (.result .ok) ∧ t.mono.regs.phase = .failed)) ∧
    ((i ≠ .colorInit ∧ t.color.regs.phase = s.color.regs.phase) ∨
      (i = .colorInit ∧ t.answer = some (.result .ok) ∧ t.color.regs.phase = .ready ∧
        t.color.regs.indeterminate = false) ∨
      (i = .colorInit ∧ t.answer ≠ some (.result .ok) ∧ t.color.regs.phase = .failed)) ∧
    (t.mono.regs.indeterminate = s.mono.regs.indeterminate ∨
      (t.mono.regs.indeterminate = false ∧ i = .monoInit ∧ t.answer = some (.result .ok)) ∨
      (t.mono.regs.indeterminate = true ∧ t.answer = some (.result .busTransferFailure))) ∧
    (t.color.regs.indeterminate = s.color.regs.indeterminate ∨
      (t.color.regs.indeterminate = false ∧ i = .colorInit ∧ t.answer = some (.result .ok)) ∨
      (t.color.regs.indeterminate = true ∧ t.answer = some (.result .busTransferFailure)))

/-- Registers with the shadows (R38, R39, R41, R42) of others. -/
def withShadows (q v : Regs) : Regs :=
  { q with
    dispOn := v.dispOn, asleep := v.asleep, backlightLevel := v.backlightLevel, resetLine := v.resetLine,
    supplyLine := v.supplyLine, blLine := v.blLine, pwmSetting := v.pwmSetting }

/-- No operation reads a shadow to decide an action: with other shadows, every instruction performs the same actions,
gives the same answer and leaves the same lifecycle and format. -/
def Obligations.ShadowsAreNeverRead : Prop :=
  ∀ (i : Instr) (s t : State) (v w : Regs), exec i s = .next t →
    ∃ t', exec i { s with
        mono := { s.mono with regs := withShadows s.mono.regs v },
        color := { s.color with regs := withShadows s.color.regs w } } = .next t' ∧
      t'.answer = t.answer ∧ t'.mono.panel = t.mono.panel ∧ t'.color.panel = t.color.panel ∧
      t'.mono.env = t.mono.env ∧ t'.color.env = t.color.env ∧
      withShadows t'.mono.regs t.mono.regs = t.mono.regs ∧ withShadows t'.color.regs t.color.regs = t.color.regs

/-- A board with another bus on each unit, another page offset and other line polarities. -/
def rewired (mb cb : Bus) (off : Byte) (ph bh : Bool) (s : State) : State :=
  { s with
    mcfg := { s.mcfg with bus := mb, pageOffset := off, supplyGpio := s.mcfg.supplyGpio.map fun _ => ⟨ph⟩ },
    ccfg := { s.ccfg with bus := cb, blGpio := s.ccfg.blGpio.map fun _ => ⟨bh⟩ } }

/-- What an operation does depends neither on the kind of bus, nor on the page offset, nor on the physical polarity of a
line. -/
def Obligations.WiringIsNeverRead : Prop :=
  ∀ (i : Instr) (s : State) (mb cb : Bus) (off : Byte) (ph bh : Bool),
    exec i (rewired mb cb off ph bh s) =
      match exec i s with
      | .next t => .next (rewired mb cb off ph bh t)
      | .fault f => .fault f
      | .refused r => .refused r

/-! ## The phase gate and the operations a unit rejects -/

/-- Outside phase Ready every gated operation hands back DeviceNotReady and does nothing else, whatever its operands: the
spec's decision D14. -/
def Obligations.GatedOperationsNeedReady : Prop :=
  (∀ s : State, s.mono.regs.idle → s.mono.regs.phase ≠ .ready →
    let no : Host.Outcome State Fault Refusal := .next (s.answered .deviceNotReady)
    (∀ x y d pix, exec (.monoWrite x y d pix) s = no) ∧ (∀ v, exec (.monoSetContrast v) s = no) ∧
    (∀ f, exec (.monoSetPixelFormat f) s = no) ∧ (∀ o, exec (.monoSetOrientation o) s = no) ∧
    exec .monoBlankingOn s = no ∧ exec .monoBlankingOff s = no ∧ exec .monoSuspend s = no ∧
    exec .monoResume s = no) ∧
  (∀ s : State, s.color.regs.idle → s.color.regs.phase ≠ .ready →
    let no : Host.Outcome State Fault Refusal := .next (s.answered .deviceNotReady)
    (∀ x y d pix, exec (.colorWrite x y d pix) s = no) ∧ (∀ b, exec (.colorSetBrightness b) s = no) ∧
    (∀ f, exec (.colorSetPixelFormat f) s = no) ∧ (∀ o, exec (.colorSetOrientation o) s = no) ∧
    exec .colorBlankingOn s = no ∧ exec .colorBlankingOff s = no ∧ exec .colorSuspend s = no ∧
    exec .colorResume s = no ∧ ∀ c, exec (.colorFill c) s = no)

/-- The operations a unit does not perform are rejected with UnsupportedOperation in every phase, with no action: the
spec's decision D28. -/
def Obligations.UnitRejectsOperations : Prop :=
  (∀ s : State, s.mono.regs.idle →
    (∀ b, exec (.monoSetBrightness b) s = .next (s.answered .unsupportedOperation)) ∧
    ∀ c, exec (.monoFill c) s = .next (s.answered .unsupportedOperation)) ∧
  (∀ s : State, s.color.regs.idle → ∀ v,
    exec (.colorSetContrast v) s = .next (s.answered .unsupportedOperation))

/-! ## MONO init -/

/-- The handles MONO init asks answer that they are ready (R202). -/
def monoHandlesReady (s : State) : Prop :=
  s.mono.env.bus.head = true ∧ (s.mcfg.resetGpio = true → s.mono.env.reset.head = true) ∧
    (s.mcfg.supplyGpio.isSome = true → s.mono.env.supply.head = true)

/-- The handles COLOR init asks answer that they are ready (R302). -/
def colorHandlesReady (s : State) : Prop :=
  s.color.env.bus.head = true ∧ (s.ccfg.resetGpio = true → s.color.env.reset.head = true) ∧
    (s.ccfg.blGpio.isSome = true → s.color.env.backlight.head = true)

/-- The actions of a successful MONO init, in order (R201 to R204, R401, R402, R404, R221). -/
def monoInitTrace (k : Consts) (op : MonoOps) (cfg : MonoCfg) : List Entry :=
  (if cfg.resetGpio then
      [gpioE .reset .asserted, delayE k.tMonoRstPulse, gpioE .reset .deasserted, delayE k.tMonoRstSettle]
    else (if k.monoSoftResetCmd = [] then [] else [cmdE k.monoSoftResetCmd]) ++ [delayE k.tMonoRstSettle])
  ++ [cmdE [op.segremap ||| (if cfg.segmentRemap then 1 else 0), op.comscan ||| (if cfg.comScanFlipped then 8 else 0)],
      cmdE [op.clockdiv, cfg.clockDiv, op.precharge, cfg.precharge, op.vcomh,
        if cfg.chip = .ssd1309 then k.vcomhSsd1309 else k.vcomhSsd1306],
      cmdE [op.startline ||| 0x00, op.dispoffset, cfg.displayOffset, op.compins, cfg.comPadCfg,
        op.mux, cfg.multiplexRatio],
      cmdE (if cfg.chip = .sh1106 then [op.dcdc, k.dcdcArg] else [op.chargepump, k.chargePumpArg])]
  ++ (if cfg.internalIref then [cmdE [op.iref, k.irefArg]] else [])
  ++ [cmdE [if cfg.colorInversion then op.inverse else op.normal], cmdE [op.contrast, k.defaultContrast]]
  ++ (if cfg.supplyGpio.isSome then [gpioE .supply .asserted, delayE cfg.tPowerSettle] else [])
  ++ [cmdE [op.dispon]]

/-- A MONO init whose handles are ready and whose transfers are taken performs exactly the listed actions, writes exactly
the listed registers, in any phase, and returns Ok. -/
def Obligations.MonoInitCompletes : Prop :=
  ∀ s : State, s.mono.regs.idle → monoHandlesReady s → s.mono.env.okFor (monoInitTrace s.k s.mop s.mcfg) →
    exec .monoInit s = .next (s.monoAsked.monoDid (monoInitTrace s.k s.mop s.mcfg)
      (fun q => { q with
        phase := .ready, indeterminate := false, dispOn := some true,
        pf := if s.mcfg.colorInversion then .monoInverted else .monoNormal,
        resetLine := if s.mcfg.resetGpio then some .deasserted else q.resetLine,
        supplyLine := if s.mcfg.supplyGpio.isSome then some .asserted else q.supplyLine }) .ok)

/-- How a MONO init that passed its readiness check ends (R205): either every action completed and it is in Ready, not
indeterminate, with Ok; or its last action is the first transfer that failed, it is in Failed, indeterminate, with
BusTransferFailure, the registers written by completed actions keep their new values and `disp_on` its old one. The outcome
of each transfer is the transport's. -/
def Obligations.MonoInitEnds : Prop :=
  ∀ s : State, s.mono.regs.idle → monoHandlesReady s →
    ∃ t es, exec .monoInit s = .next t ∧ t.mono.regs.trace = s.mono.regs.trace ++ es ∧
      (∀ j, j < xferCount es →
        ((es.filter fun e => e.act.isXfer)[j]?).map Entry.ok = some (s.mono.env.xfer.answer j)) ∧
      (((∀ e ∈ es, e.ok = true) ∧ t.answer = some (.result .ok) ∧ t.mono.regs.phase = .ready ∧
          t.mono.regs.indeterminate = false) ∨
       ∃ before e, es = before ++ [e] ∧ (∀ e ∈ before, e.ok = true) ∧ e.act.isXfer = true ∧ e.ok = false ∧
          t.answer = some (.result .busTransferFailure) ∧ t.mono.regs.phase = .failed ∧
          t.mono.regs.indeterminate = true ∧
          t.mono.regs.pf = (if s.mcfg.colorInversion then .monoInverted else .monoNormal) ∧
          t.mono.regs.resetLine = (lastLevel .reset before).or s.mono.regs.resetLine ∧
          t.mono.regs.supplyLine = (lastLevel .supply before).or s.mono.regs.supplyLine ∧
          t.mono.regs.dispOn = s.mono.regs.dispOn)

/-- An init, of either unit, whose handles are not all ready performs no action, sets `phase` to Failed and hands back
DeviceNotReady: the readiness check is the spec's decision D15. -/
def Obligations.InitNeedsReadyHandles : Prop :=
  (∀ s : State, s.mono.regs.idle → ¬ monoHandlesReady s →
    exec .monoInit s = .next { s with
      mono := { s.mono with regs := { s.mono.regs with phase := .failed }, env := s.monoAsked.mono.env },
      answer := some (.result .deviceNotReady) }) ∧
  (∀ s : State, s.color.regs.idle → ¬ colorHandlesReady s →
    exec .colorInit s = .next { s with
      color := { s.color with regs := { s.color.regs with phase := .failed }, env := s.colorAsked.color.env },
      answer := some (.result .deviceNotReady) })

/-! ## MONO write -/

/-- A request that passes the checks of R208 on a panel of `w` by `h` pixels. -/
def monoAccepted (w h x y : Nat) (d : BufferDescriptor) : Prop :=
  d.width.toNat ≤ d.pitch.toNat ∧ 0 < d.width.toNat ∧ 0 < d.height.toNat ∧ x % 8 = 0 ∧ y % 8 = 0 ∧
    x + d.width.toNat ≤ w ∧ y + d.height.toNat ≤ h

/-- The transfers of a default-path write (R212) with effective length `len`. -/
def monoDefaultTrace (op : MonoOps) (cfg : MonoCfg) (x y : Nat) (d : BufferDescriptor) (pix : List Byte)
    (len : Nat) : List Entry :=
  [cmdE [op.memmode, op.modeHorizontal, op.coladdr, trunc8 ((x : Int) + cfg.segmentOffset.toNat),
      trunc8 ((x : Int) + d.width.toNat - 1 + cfg.segmentOffset.toNat), op.pageaddr, trunc8 ((y / 8 : Nat) : Int),
      trunc8 (((y + d.height.toNat) / 8 : Nat) - 1 : Int)],
   datE (pix.take len)]

/-- The transfers of `count` pages of a quirk-path write (R214). -/
def monoQuirkTrace (op : MonoOps) (cfg : MonoCfg) (x y : Nat) (d : BufferDescriptor) (pix : List Byte)
    (count : Nat) : List Entry :=
  let c : Byte := trunc8 ((x : Int) + cfg.segmentOffset.toNat)
  (List.range count).flatMap fun n =>
    [cmdE [op.lowcol ||| (c &&& 0x0F), op.highcol ||| (c >>> 4), op.pagestart ||| trunc8 ((n + y / 8 : Nat) : Int)],
     datE ((pix.drop (n * d.width.toNat)).take d.width.toNat)]

/-- A MONO write on an SSD1306 or SSD1309 that passes the checks, with a non-zero effective length covered by its buffer,
sends the addressing commands as one transfer and the effective length as another, and changes nothing else. -/
def Obligations.MonoDefaultWriteCompletes : Prop :=
  ∀ (x y : Half) (d : BufferDescriptor) (pix : List Byte) (s : State),
    s.mono.regs.idle → s.mono.regs.phase = .ready → s.mcfg.chip ≠ .sh1106 →
    monoAccepted s.mcfg.width.toNat s.mcfg.height.toNat x.toNat y.toNat d →
    ∀ len, len = min d.bufSize.toNat (d.height.toNat * d.width.toNat / 8) → 0 < len → len ≤ pix.length →
    s.mono.env.okFor (monoDefaultTrace s.mop s.mcfg x.toNat y.toNat d pix len) →
    exec (.monoWrite x y d pix) s =
      .next (s.monoDid (monoDefaultTrace s.mop s.mcfg x.toNat y.toNat d pix len) noWrites .ok)

/-- A MONO write on an SH1106 that passes the checks, with a declared buffer that covers its whole pages, sends each page's
command triple and exactly `width` bytes of it, in page order, and changes nothing else. -/
def Obligations.MonoQuirkWriteCompletes : Prop :=
  ∀ (x y : Half) (d : BufferDescriptor) (pix : List Byte) (s : State),
    s.mono.regs.idle → s.mono.regs.phase = .ready → s.mcfg.chip = .sh1106 →
    monoAccepted s.mcfg.width.toNat s.mcfg.height.toNat x.toNat y.toNat d →
    0 < min d.bufSize.toNat (d.height.toNat * d.width.toNat / 8) →
    d.height.toNat / 8 * d.width.toNat ≤ d.bufSize.toNat → d.height.toNat / 8 * d.width.toNat ≤ pix.length →
    s.mono.env.okFor (monoQuirkTrace s.mop s.mcfg x.toNat y.toNat d pix (d.height.toNat / 8)) →
    exec (.monoWrite x y d pix) s =
      .next (s.monoDid (monoQuirkTrace s.mop s.mcfg x.toNat y.toNat d pix (d.height.toNat / 8)) noWrites .ok)

/-- The page guard of the SH1106 path: with a declared buffer shorter than its whole pages, exactly the pages that fit are
sent, and the write ends in GeometryViolation (the spec's decision D10 places the guard before the page's commands). -/
def Obligations.MonoQuirkGuardStops : Prop :=
  ∀ (x y : Half) (d : BufferDescriptor) (pix : List Byte) (s : State),
    s.mono.regs.idle → s.mono.regs.phase = .ready → s.mcfg.chip = .sh1106 →
    monoAccepted s.mcfg.width.toNat s.mcfg.height.toNat x.toNat y.toNat d →
    d.bufSize.toNat < d.height.toNat / 8 * d.width.toNat →
    ∀ count, count = d.bufSize.toNat / d.width.toNat → count * d.width.toNat ≤ pix.length →
    s.mono.env.okFor (monoQuirkTrace s.mop s.mcfg x.toNat y.toNat d pix count) →
    exec (.monoWrite x y d pix) s =
      .next (s.monoDid (monoQuirkTrace s.mop s.mcfg x.toNat y.toNat d pix count) noWrites .geometryViolation)

/-- A MONO write in phase Ready that fails a check, or has effective length 0, hands back GeometryViolation and does nothing
else (zero-area writes: the spec's decision D9). -/
def Obligations.MonoWriteRejects : Prop :=
  ∀ (x y : Half) (d : BufferDescriptor) (pix : List Byte) (s : State),
    s.mono.regs.idle → s.mono.regs.phase = .ready →
    ¬ monoAccepted s.mcfg.width.toNat s.mcfg.height.toNat x.toNat y.toNat d ∨
      min d.bufSize.toNat (d.height.toNat * d.width.toNat / 8) = 0 →
    exec (.monoWrite x y d pix) s = .next (s.answered .geometryViolation)

/-- On a well-formed configuration the addresses of an accepted MONO write fit their fields: no column and no page of the
default path is truncated, but for the page end of a write of less than a page at row 0, which is 0xFF (R162); and the page
byte of every page of the quirk path is one of 0xB0 to 0xB7. -/
def Obligations.MonoAddressesFit : Prop :=
  ∀ (cfg : MonoCfg) (x y : Half) (d : BufferDescriptor), monoCfgOk cfg = true →
    monoAccepted cfg.width.toNat cfg.height.toNat x.toNat y.toNat d →
    (monoColumnStart cfg x.toNat).toNat = x.toNat + cfg.segmentOffset.toNat ∧
    (monoColumnEnd cfg x.toNat d.width.toNat).toNat = x.toNat + d.width.toNat - 1 + cfg.segmentOffset.toNat ∧
    (monoPageStart y.toNat).toNat = y.toNat / 8 ∧ y.toNat / 8 ≤ 7 ∧
    (8 ≤ y.toNat + d.height.toNat →
      (monoPageEnd y.toNat d.height.toNat).toNat = (y.toNat + d.height.toNat) / 8 - 1 ∧
      (y.toNat + d.height.toNat) / 8 - 1 ≤ 7) ∧
    (y.toNat + d.height.toNat < 8 → monoPageEnd y.toNat d.height.toNat = 0xFF) ∧
    ∀ n, n < d.height.toNat / 8 →
      ∃ p : BitVec 3, p.toNat = n + y.toNat / 8 ∧
        pageTriple MonoOps.spec (monoColumnStart cfg x.toNat) (n + y.toNat / 8) =
          [lowcolByte .spec (lowNibble (monoColumnStart cfg x.toNat)),
           highcolByte .spec (highNibble (monoColumnStart cfg x.toNat)), pagestartByte .spec p]

/-! ## The other MONO operations -/

/-- MONO set_contrast (R217): in Ready it sends the contrast command with the operand verbatim and writes no register; a
failed transfer gives BusTransferFailure; outside Ready it hands back DeviceNotReady with no action. -/
def Obligations.MonoSetContrastSends : Prop :=
  ∀ (v : Byte) (s : State), s.mono.regs.idle →
    (s.mono.regs.phase = .ready → s.mono.env.xfer.head = true →
      exec (.monoSetContrast v) s = .next (s.monoDid [cmdE [s.mop.contrast, v]] noWrites .ok)) ∧
    (s.mono.regs.phase = .ready → s.mono.env.xfer.head = false →
      exec (.monoSetContrast v) s = .next (s.monoDid [⟨.xfer .cmd [s.mop.contrast, v], false⟩]
        (fun q => { q with indeterminate := true }) .busTransferFailure)) ∧
    (s.mono.regs.phase ≠ .ready → exec (.monoSetContrast v) s = .next (s.answered .deviceNotReady))

/-- MONO set_pixel_format in Ready: a colour format is UnsupportedOperation; the current format is Ok with no action; another
polarity is sent and then held; if its transfer fails, `pf` is unchanged (the spec's decisions D17, D28). -/
def Obligations.MonoSetPixelFormatSwitches : Prop :=
  ∀ (f : Format) (s : State), s.mono.regs.idle → s.mono.regs.phase = .ready →
    ((f = .rgb565 ∨ f = .rgb888) → exec (.monoSetPixelFormat f) s = .next (s.answered .unsupportedOperation)) ∧
    ((f = .monoNormal ∨ f = .monoInverted) →
      (f = s.mono.regs.pf → exec (.monoSetPixelFormat f) s = .next (s.answered .ok)) ∧
      (f ≠ s.mono.regs.pf → s.mono.env.xfer.head = true →
        exec (.monoSetPixelFormat f) s = .next (s.monoDid
          [cmdE [if f = .monoInverted then s.mop.inverse else s.mop.normal]] (fun q => { q with pf := f }) .ok)) ∧
      (f ≠ s.mono.regs.pf → s.mono.env.xfer.head = false →
        exec (.monoSetPixelFormat f) s = .next (s.monoDid
          [⟨.xfer .cmd [if f = .monoInverted then s.mop.inverse else s.mop.normal], false⟩]
          (fun q => { q with indeterminate := true }) .busTransferFailure)))

/-- Asking for the same format again sends nothing: after any successful MONO set_pixel_format, the same call changes only
the answer. -/
def Obligations.MonoPixelFormatIdempotent : Prop :=
  ∀ (f : Format) (s t : State), s.mono.regs.idle → exec (.monoSetPixelFormat f) s = .next t →
    t.answer = some (.result .ok) → exec (.monoSetPixelFormat f) t = .next t

/-- get_capabilities on both units, in every state: the record of the configuration and the current format, and nothing
else changed. -/
def Obligations.CapabilitiesReported : Prop :=
  (∀ s : State, exec .monoGetCapabilities s = .next { s with answer := some (.capabilities
    { width := s.mcfg.width, height := s.mcfg.height, supportedFormats := [.monoNormal, .monoInverted],
      currentFormat := s.mono.regs.pf, orientation := .normal }) }) ∧
  (∀ s : State, exec .colorGetCapabilities s = .next { s with answer := some (.capabilities
    { width := s.ccfg.width, height := s.ccfg.height, supportedFormats := [s.ccfg.pixelFormat.toFormat],
      currentFormat := s.ccfg.pixelFormat.toFormat, orientation := .normal }) })

/-- MONO suspend and blanking_on send display-off and then remove the supply if there is a supply gate; resume and
blanking_off assert it, wait, and send display-on (the mapping of blanking and the order at suspend are the spec's decision
D24). Nothing but `disp_on` and `supply_line` is written. -/
def Obligations.MonoDisplayOperations : Prop :=
  ∀ s : State, s.mono.regs.idle → s.mono.regs.phase = .ready → s.mono.env.xfer.head = true →
    let off : Host.Outcome State Fault Refusal := .next (s.monoDid
      (cmdE [s.mop.dispoff] :: if s.mcfg.supplyGpio.isSome then [gpioE .supply .deasserted] else [])
      (fun q => { q with
        dispOn := some false,
        supplyLine := if s.mcfg.supplyGpio.isSome then some .deasserted else q.supplyLine }) .ok)
    let on : Host.Outcome State Fault Refusal := .next (s.monoDid
      ((if s.mcfg.supplyGpio.isSome then [gpioE .supply .asserted, delayE s.mcfg.tPowerSettle] else [])
        ++ [cmdE [s.mop.dispon]])
      (fun q => { q with
        dispOn := some true,
        supplyLine := if s.mcfg.supplyGpio.isSome then some .asserted else q.supplyLine }) .ok)
    exec .monoSuspend s = off ∧ exec .monoBlankingOn s = off ∧ exec .monoResume s = on ∧ exec .monoBlankingOff s = on

/-- set_orientation on both units in Ready: the identity orientation is Ok, any other UnsupportedOperation, and neither
performs an action (for MONO the spec's decision D27). -/
def Obligations.OnlyIdentityOrientation : Prop :=
  (∀ (o : Orientation) (s : State), s.mono.regs.idle → s.mono.regs.phase = .ready →
    exec (.monoSetOrientation o) s = .next (s.answered (if o = .normal then .ok else .unsupportedOperation))) ∧
  (∀ (o : Orientation) (s : State), s.color.regs.idle → s.color.regs.phase = .ready →
    exec (.colorSetOrientation o) s = .next (s.answered (if o = .normal then .ok else .unsupportedOperation)))

/-! ## COLOR init -/

/-- The actions of COLOR init's reset step (R403). -/
def colorResetTrace (k : Consts) (op : ColorOps) (cfg : ColorCfg) : List Entry :=
  if cfg.resetGpio then
    [gpioE .reset .asserted, delayE k.tColorRstLow, gpioE .reset .deasserted, delayE k.tColorRstSettle]
  else [cmdE [op.swreset], delayE k.tColorRstSettle]

/-- The actions of a successful COLOR init, in order (R302 to R305). -/
def colorInitTrace (k : Consts) (op : ColorOps) (cfg : ColorCfg) : List Entry :=
  colorResetTrace k op cfg
  ++ [cmdE [op.dispoff]]
  ++ cmdpE op.cmd2en cfg.cmd2enParam ++ cmdpE op.porctrl cfg.porchParam ++ cmdpE op.dgmen [k.dgmenDefault]
  ++ cmdpE op.frctrl2 [k.frctrl2Default] ++ cmdpE op.gctrl [cfg.gctrl] ++ cmdpE op.vcoms [cfg.vcom]
  ++ (match cfg.vrhVdv with
      | none => []
      | some v => cmdpE op.vdvvrhen [k.vdvvrhenEnable] ++ cmdpE op.vrhs [v.1] ++ cmdpE op.vdvs [v.2])
  ++ cmdpE op.pwctrl1 cfg.pwctrl1Param ++ cmdpE op.madctl [cfg.mdac] ++ cmdpE op.colmod [cfg.colmod]
  ++ cmdpE op.lcmctrl [cfg.lcm] ++ cmdpE op.gamset [cfg.gamma]
  ++ [cmdE [if cfg.inversionOn then op.invon else op.invoff]]
  ++ cmdpE op.pvgamctrl cfg.pvgamParam ++ cmdpE op.nvgamctrl cfg.nvgamParam ++ cmdpE op.ramctrl cfg.ramParam
  ++ cmdpE op.rgbctrl cfg.rgbParam
  ++ [cmdE [op.slpout], delayE k.tSlpout, cmdE [op.dispon]]

/-- A COLOR init whose handles are ready and whose transfers are taken performs exactly the listed actions, writes exactly
the listed registers, in any phase, and returns Ok; the backlight is not touched. -/
def Obligations.ColorInitCompletes : Prop :=
  ∀ s : State, s.color.regs.idle → colorHandlesReady s → s.color.env.okFor (colorInitTrace s.k s.cop s.ccfg) →
    exec .colorInit s = .next (s.colorAsked.colorDid (colorInitTrace s.k s.cop s.ccfg)
      (fun q => { q with
        phase := .ready, indeterminate := false, dispOn := some true, asleep := some false,
        resetLine := if s.ccfg.resetGpio then some .deasserted else q.resetLine }) .ok)

/-- A COLOR init whose handles are ready and whose transport fails a transfer stops at it: the actions before it stand, it is
recorded as failed, `phase` is Failed, the panel indeterminate, the result BusTransferFailure; the reset line keeps its last
level, `disp_on` is false once display-off was sent, `asleep` false once sleep-out was sent, and else they are unchanged. -/
def Obligations.ColorInitStopsAtFailure : Prop :=
  ∀ s : State, s.color.regs.idle → colorHandlesReady s → ∀ all, all = colorInitTrace s.k s.cop s.ccfg →
    ¬ s.color.env.okFor all →
      ∃ t before e rest, exec .colorInit s = .next t ∧ all = before ++ e :: rest ∧ e.act.isXfer = true ∧
        s.color.env.okFor before ∧ s.color.env.xfer.answer (xferCount before) = false ∧
        t.color.regs.trace = s.color.regs.trace ++ before ++ [{ e with ok := false }] ∧
        t.answer = some (.result .busTransferFailure) ∧ t.color.regs.phase = .failed ∧
        t.color.regs.indeterminate = true ∧
        t.color.regs.resetLine = (lastLevel .reset before).or s.color.regs.resetLine ∧
        t.color.regs.dispOn =
          (if (colorResetTrace s.k s.cop s.ccfg).length < before.length then some false else s.color.regs.dispOn) ∧
        t.color.regs.asleep = (if all.length < before.length + 3 then some false else s.color.regs.asleep)

/-! ## COLOR write -/

/-- The transfers that set the window of a COLOR write (R309), for a rectangle of `w` by `h` pixels at (x, y). -/
def colorWindowTrace (op : ColorOps) (cfg : ColorCfg) (x y w h : Nat) : List Entry :=
  let bounds := fun (a b : Half) => [hi8 a, lo8 a, hi8 b, lo8 b]
  [cmdE [op.caset], datE (bounds (trunc16 ((x : Int) + cfg.xOffset.toNat))
      (trunc16 ((x : Int) + cfg.xOffset.toNat + w - 1))),
   cmdE [op.raset], datE (bounds (trunc16 ((y : Int) + cfg.yOffset.toNat))
      (trunc16 ((y : Int) + cfg.yOffset.toNat + h - 1))),
   cmdE [op.ramwr]]

/-- A COLOR write whose pitch is its width sends the window and then the rectangle's bytes as one transfer, and changes
nothing else (the wrap of the bounds is the spec's decision D8). -/
def Obligations.ColorContiguousWriteCompletes : Prop :=
  ∀ (x y : Half) (d : BufferDescriptor) (pix : List Byte) (s : State),
    s.color.regs.idle → s.color.regs.phase = .ready → d.pitch = d.width → d.width ≠ 0 → d.height ≠ 0 →
    ∀ need, need = d.width.toNat * d.height.toNat * s.ccfg.pixelFormat.bytes →
    need ≤ d.bufSize.toNat → need ≤ pix.length →
    ∀ es, es = colorWindowTrace s.cop s.ccfg x.toNat y.toNat d.width.toNat d.height.toNat ++
      [datE (pix.take need)] →
    s.color.env.okFor es →
    exec (.colorWrite x y d pix) s = .next (s.colorDid es noWrites .ok)

/-- A COLOR write whose pitch exceeds its width sends the window and then exactly `height` transfers of `width * PS` bytes,
the source advancing by `pitch * PS` between them, so that no padding is sent; nothing else changes. -/
def Obligations.ColorStridedWriteCompletes : Prop :=
  ∀ (x y : Half) (d : BufferDescriptor) (pix : List Byte) (s : State),
    s.color.regs.idle → s.color.regs.phase = .ready → d.width.toNat < d.pitch.toNat → d.width ≠ 0 → d.height ≠ 0 →
    ∀ need, need = ((d.height.toNat - 1) * d.pitch.toNat + d.width.toNat) * s.ccfg.pixelFormat.bytes →
    need ≤ d.bufSize.toNat → need ≤ pix.length →
    ∀ es, es = colorWindowTrace s.cop s.ccfg x.toNat y.toNat d.width.toNat d.height.toNat ++
      ((List.range d.height.toNat).map fun r =>
        datE ((pix.drop (r * d.pitch.toNat * s.ccfg.pixelFormat.bytes)).take
          (d.width.toNat * s.ccfg.pixelFormat.bytes))) →
    s.color.env.okFor es →
    exec (.colorWrite x y d pix) s = .next (s.colorDid es noWrites .ok)

/-- A COLOR write in Ready with `pitch < width` or an empty rectangle hands back GeometryViolation and does nothing else;
otherwise a declared buffer shorter than the rectangle is the fault HostBufferOverrun (the spec's decisions D9, D11). -/
def Obligations.ColorWriteTurnedAway : Prop :=
  ∀ (x y : Half) (d : BufferDescriptor) (pix : List Byte) (s : State),
    s.color.regs.idle → s.color.regs.phase = .ready →
    ((d.pitch.toNat < d.width.toNat ∨ d.width = 0 ∨ d.height = 0) →
      exec (.colorWrite x y d pix) s = .next (s.answered .geometryViolation)) ∧
    (¬ (d.pitch.toNat < d.width.toNat ∨ d.width = 0 ∨ d.height = 0) →
      d.bufSize.toNat < ((d.height.toNat - 1) * d.pitch.toNat + d.width.toNat) * s.ccfg.pixelFormat.bytes →
      exec (.colorWrite x y d pix) s = .fault .hostBufferOverrun)

/-! ## The other COLOR operations -/

/-- COLOR blanking_off (R316): in Ready it sends display-on and sets `disp_on`, whatever `asleep` holds; a failed transfer
gives BusTransferFailure; outside Ready it hands back DeviceNotReady with no action. -/
def Obligations.ColorBlankingOffSends : Prop :=
  ∀ s : State, s.color.regs.idle →
    (s.color.regs.phase = .ready → s.color.env.xfer.head = true →
      exec .colorBlankingOff s =
        .next (s.colorDid [cmdE [s.cop.dispon]] (fun q => { q with dispOn := some true }) .ok)) ∧
    (s.color.regs.phase = .ready → s.color.env.xfer.head = false →
      exec .colorBlankingOff s = .next (s.colorDid [⟨.xfer .cmd [s.cop.dispon], false⟩]
        (fun q => { q with indeterminate := true }) .busTransferFailure)) ∧
    (s.color.regs.phase ≠ .ready → exec .colorBlankingOff s = .next (s.answered .deviceNotReady))

/-- COLOR blanking_on, suspend and resume in Ready: display-off, sleep-in, and sleep-out with its settle delay, each with
its shadow and nothing else (suspend and resume are the spec's decision D26). -/
def Obligations.ColorDisplayAndSleepOperations : Prop :=
  ∀ s : State, s.color.regs.idle → s.color.regs.phase = .ready → s.color.env.xfer.head = true →
    exec .colorBlankingOn s =
      .next (s.colorDid [cmdE [s.cop.dispoff]] (fun q => { q with dispOn := some false }) .ok) ∧
    exec .colorSuspend s =
      .next (s.colorDid [cmdE [s.cop.slpin]] (fun q => { q with asleep := some true }) .ok) ∧
    exec .colorResume s =
      .next (s.colorDid [cmdE [s.cop.slpout], delayE s.k.tSlpout] (fun q => { q with asleep := some false }) .ok)

/-- COLOR set_pixel_format in Ready: the compiled format is Ok, any other UnsupportedOperation, with no action (accepting the
compiled format is the spec's decision D27). -/
def Obligations.ColorOnlyCompiledFormat : Prop :=
  ∀ (f : Format) (s : State), s.color.regs.idle → s.color.regs.phase = .ready →
    exec (.colorSetPixelFormat f) s =
      .next (s.answered (if f = s.ccfg.pixelFormat.toFormat then .ok else .unsupportedOperation))

/-! ## Backlight -/

/-- COLOR set_brightness in Ready with a configured PWM that is ready sets the PWM to its period and `period * b / 255`;
with a PWM that is not ready and no GPIO it hands back DeviceNotReady, with neither configured UnsupportedOperation, with no
action (the spec's decision D29). -/
def Obligations.BrightnessByPwm : Prop :=
  ∀ (b : Byte) (s : State), s.color.regs.idle → s.color.regs.phase = .ready →
    (∀ h, s.ccfg.blPwm = some h → s.color.env.pwm.head = true →
      exec (.colorSetBrightness b) s = .next (s.pwmAsked.colorDid [pwmE h.period (h.period * b.toNat / 255)]
        (fun q => { q with
          pwmSetting := some (h.period, h.period * b.toNat / 255), backlightLevel := some b }) .ok)) ∧
    (∀ h, s.ccfg.blPwm = some h → s.color.env.pwm.head = false → s.ccfg.blGpio = none →
      exec (.colorSetBrightness b) s = .next (s.pwmAsked.answered .deviceNotReady)) ∧
    (s.ccfg.blPwm = none → s.ccfg.blGpio = none →
      exec (.colorSetBrightness b) s = .next (s.answered .unsupportedOperation))

/-- The GPIO fallback (R412): with a backlight GPIO, and no PWM or one that is not ready, the backlight line is asserted for
every b > 0 and deasserted for b = 0. -/
def Obligations.BrightnessByGpio : Prop :=
  ∀ (b : Byte) (s : State), s.color.regs.idle → s.color.regs.phase = .ready → s.ccfg.blGpio.isSome = true →
    (s.ccfg.blPwm = none ∨ s.color.env.pwm.head = false) →
    ∀ lvl, lvl = (if 0 < b.toNat then Level.asserted else Level.deasserted) →
    exec (.colorSetBrightness b) s = .next (s.pwmAsked.colorDid [gpioE .backlight lvl]
      (fun q => { q with blLine := some lvl, backlightLevel := some b }) .ok)

/-- The duty (R411; the floor is the spec's decision D29): within the period, 0 at 0, the period at 255, monotone, and its
product within 32 bits for a well-formed configuration. -/
def Obligations.DutyLaw : Prop :=
  ∀ (period : Nat) (b c : Byte),
    duty period b ≤ period ∧ duty period 0 = 0 ∧ duty period 255 = period ∧
    (b.toNat ≤ c.toNat → duty period b ≤ duty period c) ∧
    (pwmOk (some ⟨period⟩) = true → period * b.toNat < 2 ^ 32)

/-! ## Fill -/

/-- A fill of a well-formed board in Ready, with a colour of one pixel, is exactly ceil(H / C) writes at y = 0, C, 2C, …,
each of height C but the last, which covers the rows left, so 6 transfers a write; nothing else changes. With a colour of
another length it hands back GeometryViolation and does nothing else. -/
def Obligations.FillTilesThePanel : Prop :=
  ∀ (color : List Byte) (s : State), s.color.regs.idle → s.color.regs.phase = .ready → colorCfgOk s.k s.ccfg = true →
    ∀ H C W ps count, H = s.ccfg.height.toNat → C = s.k.fillChunkRows → W = s.ccfg.width.toNat →
      ps = s.ccfg.pixelFormat.bytes → count = (H + C - 1) / C →
    (color.length = ps →
      ∀ es, es = ((List.range count).flatMap fun j =>
        colorWindowTrace s.cop s.ccfg 0 (j * C) W (min C (H - j * C)) ++
          [datE (((List.replicate (W * C) color).flatten).take (W * min C (H - j * C) * ps))]) →
      xferCount es = 6 * count ∧
      (s.color.env.okFor es → exec (.colorFill color) s = .next (s.colorDid es noWrites .ok))) ∧
    (color.length ≠ ps → exec (.colorFill color) s = .next (s.answered .geometryViolation))

/-! ## Wire rows -/

/-- Each MONO wire command, in every phase, is sent as one command transfer of its bytes and changes nothing else. That the
rows act on their own is the model's choice (log 3); so are, by inference, that NORMAL and INVERSE leave `pf` alone (log 14)
and that a row answers Ok (log 15). -/
def Obligations.MonoCommandsSend : Prop :=
  ∀ s : State, s.mono.regs.idle → s.mono.env.xfer.head = true →
    let sent := fun (i : Instr) (bytes : List Byte) => exec i s = .next (s.monoDid [cmdE bytes] noWrites .ok)
    let op := s.mop
    (∀ l, sent (.monoLowcol l) [op.lowcol ||| l.setWidth 8]) ∧ (∀ h, sent (.monoHighcol h) [op.highcol ||| h.setWidth 8]) ∧
    (∀ a, sent (.monoMemmode a) [op.memmode, a]) ∧ (∀ a b, sent (.monoColaddr a b) [op.coladdr, a, b]) ∧
    (∀ a b, sent (.monoPageaddr a b) [op.pageaddr, a, b]) ∧
    (∀ l, sent (.monoStartline l) [op.startline ||| l.setWidth 8]) ∧ (∀ a, sent (.monoContrast a) [op.contrast, a]) ∧
    (∀ a, sent (.monoChargepump a) [op.chargepump, a]) ∧
    (∀ r, sent (.monoSegremap r) [op.segremap ||| (if r then 1 else 0)]) ∧ sent .monoNormal [op.normal] ∧
    sent .monoInverse [op.inverse] ∧ (∀ a, sent (.monoMux a) [op.mux, a]) ∧ (∀ a, sent (.monoDcdc a) [op.dcdc, a]) ∧
    (∀ a, sent (.monoIref a) [op.iref, a]) ∧ (∀ p, sent (.monoPagestart p) [op.pagestart ||| p.setWidth 8]) ∧
    (∀ f, sent (.monoComscan f) [op.comscan ||| (if f then 8 else 0)]) ∧
    (∀ a, sent (.monoDispoffset a) [op.dispoffset, a]) ∧ (∀ a, sent (.monoClockdiv a) [op.clockdiv, a]) ∧
    (∀ a, sent (.monoPrecharge a) [op.precharge, a]) ∧ (∀ a, sent (.monoCompins a) [op.compins, a]) ∧
    (∀ a, sent (.monoVcomh a) [op.vcomh, a])

/-- The MONO wire rows that are not plain commands: display-off and display-on set `disp_on` once sent; a payload is sent as
one data transfer; SOFT_RESET sends the open parameter string; an empty string or payload sends nothing. That the rows act
on their own (log 3), write the shadow (log 14), answer Ok (log 15), carry no reset delay (log 17) and send nothing for an
empty string (log 22) are the model's. -/
def Obligations.MonoDisplayAndDataRowsSend : Prop :=
  ∀ s : State, s.mono.regs.idle → s.mono.env.xfer.head = true →
    exec .monoDispoff s = .next (s.monoDid [cmdE [s.mop.dispoff]] (fun q => { q with dispOn := some false }) .ok) ∧
    exec .monoDispon s = .next (s.monoDid [cmdE [s.mop.dispon]] (fun q => { q with dispOn := some true }) .ok) ∧
    exec .monoSoftReset s = .next (s.monoDid
      (if s.k.monoSoftResetCmd = [] then [] else [cmdE s.k.monoSoftResetCmd]) noWrites .ok) ∧
    ∀ px, exec (.monoData px) s = .next (s.monoDid (if px = [] then [] else [datE px]) noWrites .ok)

/-- Each COLOR wire command, in every phase, is sent as its command byte and then its parameters, if it has any, and changes
nothing else; a window command carries its bounds most significant byte first. That the rows act on their own (log 3),
answer Ok (log 15) and carry no reset delay (log 17) are the model's. -/
def Obligations.ColorCommandsSend : Prop :=
  ∀ s : State, s.color.regs.idle →
    let sent := fun (i : Instr) (op : Byte) (ps : List Byte) => s.color.env.okFor (cmdpE op ps) →
      exec i s = .next (s.colorDid (cmdpE op ps) noWrites .ok)
    let op := s.cop
    sent .colorSwreset op.swreset [] ∧ sent .colorInvoff op.invoff [] ∧ sent .colorInvon op.invon [] ∧
    sent .colorRamwr op.ramwr [] ∧ (∀ a, sent (.colorGamset a) op.gamset [a]) ∧
    (∀ a b, sent (.colorCaset a b) op.caset [hi8 a, lo8 a, hi8 b, lo8 b]) ∧
    (∀ a b, sent (.colorRaset a b) op.raset [hi8 a, lo8 a, hi8 b, lo8 b]) ∧
    (∀ a, sent (.colorMadctl a) op.madctl [a]) ∧ (∀ a, sent (.colorColmod a) op.colmod [a]) ∧
    (∀ ps, sent (.colorRamctrl ps) op.ramctrl ps) ∧ (∀ ps, sent (.colorRgbctrl ps) op.rgbctrl ps) ∧
    (∀ ps, sent (.colorPorctrl ps) op.porctrl ps) ∧ (∀ a, sent (.colorGctrl a) op.gctrl [a]) ∧
    (∀ a, sent (.colorDgmen a) op.dgmen [a]) ∧ (∀ a, sent (.colorVcoms a) op.vcoms [a]) ∧
    (∀ a, sent (.colorLcmctrl a) op.lcmctrl [a]) ∧ (∀ a, sent (.colorVdvvrhen a) op.vdvvrhen [a]) ∧
    (∀ a, sent (.colorVrhs a) op.vrhs [a]) ∧ (∀ a, sent (.colorVdvs a) op.vdvs [a]) ∧
    (∀ a, sent (.colorFrctrl2 a) op.frctrl2 [a]) ∧ (∀ ps, sent (.colorPwctrl1 ps) op.pwctrl1 ps) ∧
    (∀ ps, sent (.colorCmd2en ps) op.cmd2en ps) ∧ (∀ ps, sent (.colorPvgamctrl ps) op.pvgamctrl ps) ∧
    (∀ ps, sent (.colorNvgamctrl ps) op.nvgamctrl ps)

/-- The COLOR wire rows that are not plain commands: display-off, display-on, sleep-in and sleep-out set their shadow once
sent, and sleep-out is followed by its settle delay; a payload is sent as one data transfer, an empty one not at all. That
the rows act on their own (log 3), write the shadow (log 14), answer Ok (log 15), that SLPOUT includes its delay (log 17) and
that an empty payload is not sent (log 22) are the model's. -/
def Obligations.ColorDisplaySleepAndDataRowsSend : Prop :=
  ∀ s : State, s.color.regs.idle → s.color.env.xfer.head = true →
    exec .colorDispoff s = .next (s.colorDid [cmdE [s.cop.dispoff]] (fun q => { q with dispOn := some false }) .ok) ∧
    exec .colorDispon s = .next (s.colorDid [cmdE [s.cop.dispon]] (fun q => { q with dispOn := some true }) .ok) ∧
    exec .colorSlpin s = .next (s.colorDid [cmdE [s.cop.slpin]] (fun q => { q with asleep := some true }) .ok) ∧
    exec .colorSlpout s = .next (s.colorDid [cmdE [s.cop.slpout], delayE s.k.tSlpout]
      (fun q => { q with asleep := some false }) .ok) ∧
    ∀ px, exec (.colorData px) s = .next (s.colorDid (if px = [] then [] else [datE px]) noWrites .ok)

/-- With the spec's opcode values, what a wire command puts on the bus is what it is encoded as: on MONO its bytes as one
command transfer, on COLOR its first byte as a command and the others as data (and, after sleep-out, its delay). That the
rows are run alone on ports of their own (log 3) and that the SLPOUT row includes the delay (log 17) are the model's. -/
def Obligations.EmittedBytesAreTheEncoding : Prop :=
  (∀ (i : Instr) (s t : State), s.mop = MonoOps.spec → s.mono.env.xfer.head = true →
    (encode i).port = .cmd .mono → exec i s = .next t →
    t.mono.regs.trace = s.mono.regs.trace ++ [cmdE (encode i).bytes]) ∧
  (∀ (i : Instr) (s t : State) (op : Byte) (ps : List Byte), s.cop = ColorOps.spec →
    s.color.env.okFor (cmdpE op ps) → (encode i).port = .cmd .color → (encode i).bytes = op :: ps →
    exec i s = .next t →
    t.color.regs.trace = s.color.regs.trace ++ cmdpE op ps ++ if i = .colorSlpout then [delayE s.k.tSlpout] else [])

/-! ## The panels' pixel stores (the test-only sinks of R125 to R128; while `indeterminate` is true, and until a delay has
followed a reset, a drive of the supply line or a sleep-out, the spec calls them any value or does not say, so each statement
has `indeterminate` false and the panel settled, logs 31 and 32) -/

/-- A payload on an SH1106 sink is stored byte by byte from its pointer on, and every other address reads as before. That a
DATA row acts on its own is the model's choice (log 3). -/
def Obligations.PageDataStoresConsecutively : Prop :=
  ∀ (px : List Byte) (s : State), px ≠ [] → s.mcfg.chip = .sh1106 → s.mono.regs.indeterminate = false →
    s.mono.panel.settled = true → s.mono.env.xfer.head = true → s.mono.panel.col + px.length ≤ s.mono.panel.lastCol + 1 →
    ∀ base, base = monoCell s.mono.panel.page s.mono.panel.col →
    ∃ t, exec (.monoData px) s = .next t ∧
      (∀ j, (hj : j < px.length) → Memory.read t.mono.panel.cells (base + j) = some px[j]) ∧
      ∀ a, a < base ∨ base + px.length ≤ a → Memory.read t.mono.panel.cells a = Memory.read s.mono.panel.cells a

/-- A default-path MONO write of whole pages lands byte n * width + c at page y/8 + n, column x + segment_offset + c of the
sink, and every other address reads as before (the sink's horizontal mode is the spec's general knowledge). The addressing
transfer is not the board's soft-reset string, which would reset the panel. -/
def Obligations.DefaultWriteFillsItsPages : Prop :=
  ∀ (x y : Half) (d : BufferDescriptor) (pix : List Byte) (s t : State),
    s.mop = MonoOps.spec → s.mcfg.chip ≠ .sh1106 → monoCfgOk s.mcfg = true →
    s.k.monoSoftResetCmd ≠ [0x20, 0x00, 0x21, monoColumnStart s.mcfg x.toNat, monoColumnEnd s.mcfg x.toNat d.width.toNat,
      0x22, monoPageStart y.toNat, monoPageEnd y.toNat d.height.toNat] →
    s.mono.regs.phase = .ready → s.mono.regs.indeterminate = false → s.mono.panel.settled = true →
    monoAccepted s.mcfg.width.toNat s.mcfg.height.toNat x.toNat y.toNat d →
    d.height.toNat % 8 = 0 → d.height.toNat / 8 * d.width.toNat ≤ d.bufSize.toNat →
    d.height.toNat / 8 * d.width.toNat ≤ pix.length → s.mono.env.xfer.answer 0 = true →
    s.mono.env.xfer.answer 1 = true →
    ∀ cell, cell = (fun n c => monoCell (y.toNat / 8 + n) (x.toNat + s.mcfg.segmentOffset.toNat + c)) →
    exec (.monoWrite x y d pix) s = .next t →
    (∀ n c, n < d.height.toNat / 8 → c < d.width.toNat →
      Memory.read t.mono.panel.cells (cell n c) = pix[n * d.width.toNat + c]?) ∧
    ∀ a, (∀ n c, n < d.height.toNat / 8 → c < d.width.toNat → a ≠ cell n c) →
      Memory.read t.mono.panel.cells a = Memory.read s.mono.panel.cells a

/-- A contiguous COLOR write inside the panel fills its window row by row exactly once, and every other address reads as
before (the sink is the spec's general knowledge). -/
def Obligations.ContiguousWriteFillsItsWindow : Prop :=
  ∀ (x y : Half) (d : BufferDescriptor) (pix : List Byte) (s t : State),
    s.cop = ColorOps.spec → s.color.regs.phase = .ready → s.color.regs.indeterminate = false →
    s.color.panel.settled = true → s.color.panel.pending = [] → s.color.panel.formatOk = true →
    d.pitch = d.width → d.width ≠ 0 → d.height ≠ 0 →
    x.toNat + d.width.toNat ≤ s.ccfg.width.toNat → y.toNat + d.height.toNat ≤ s.ccfg.height.toNat →
    s.ccfg.xOffset.toNat + s.ccfg.width.toNat ≤ 65536 → s.ccfg.yOffset.toNat + s.ccfg.height.toNat ≤ 65536 →
    ∀ ps, ps = s.ccfg.pixelFormat.bytes →
    d.width.toNat * d.height.toNat * ps ≤ d.bufSize.toNat → d.width.toNat * d.height.toNat * ps ≤ pix.length →
    (∀ j, j < 6 → s.color.env.xfer.answer j = true) →
    ∀ cell, cell = (fun r c k =>
      colorCell (y.toNat + s.ccfg.yOffset.toNat + r) (x.toNat + s.ccfg.xOffset.toNat + c) + k) →
    exec (.colorWrite x y d pix) s = .next t →
    (∀ r c k, r < d.height.toNat → c < d.width.toNat → k < ps →
      Memory.read t.color.panel.cells (cell r c k) = pix[(r * d.width.toNat + c) * ps + k]?) ∧
    ∀ a, (∀ r c k, r < d.height.toNat → c < d.width.toNat → k < ps → a ≠ cell r c k) →
      Memory.read t.color.panel.cells a = Memory.read s.color.panel.cells a

/-- A strided COLOR write inside the panel fills its window row by row exactly once, skipping the padding of each row of the
buffer, and every other address reads as before (the sink is the spec's general knowledge). -/
def Obligations.StridedWriteFillsItsWindow : Prop :=
  ∀ (x y : Half) (d : BufferDescriptor) (pix : List Byte) (s t : State),
    s.cop = ColorOps.spec → s.color.regs.phase = .ready → s.color.regs.indeterminate = false →
    s.color.panel.settled = true → s.color.panel.pending = [] → s.color.panel.formatOk = true →
    d.width.toNat < d.pitch.toNat → d.width ≠ 0 → d.height ≠ 0 →
    x.toNat + d.width.toNat ≤ s.ccfg.width.toNat → y.toNat + d.height.toNat ≤ s.ccfg.height.toNat →
    s.ccfg.xOffset.toNat + s.ccfg.width.toNat ≤ 65536 → s.ccfg.yOffset.toNat + s.ccfg.height.toNat ≤ 65536 →
    ∀ ps, ps = s.ccfg.pixelFormat.bytes →
    ((d.height.toNat - 1) * d.pitch.toNat + d.width.toNat) * ps ≤ d.bufSize.toNat →
    ((d.height.toNat - 1) * d.pitch.toNat + d.width.toNat) * ps ≤ pix.length →
    (∀ j, j < 5 + d.height.toNat → s.color.env.xfer.answer j = true) →
    ∀ cell, cell = (fun r c k =>
      colorCell (y.toNat + s.ccfg.yOffset.toNat + r) (x.toNat + s.ccfg.xOffset.toNat + c) + k) →
    exec (.colorWrite x y d pix) s = .next t →
    (∀ r c k, r < d.height.toNat → c < d.width.toNat → k < ps →
      Memory.read t.color.panel.cells (cell r c k) = pix[(r * d.pitch.toNat + c) * ps + k]?) ∧
    ∀ a, (∀ r c k, r < d.height.toNat → c < d.width.toNat → k < ps → a ≠ cell r c k) →
      Memory.read t.color.panel.cells a = Memory.read s.color.panel.cells a

/-- Operations that store no pixel leave the pixel store alone, when their transfers are taken by a settled panel: on MONO
set_contrast, set_pixel_format, set_orientation, set_brightness, get_capabilities and fill, and without a supply gate
suspend, resume and blanking, unless what they send is the board's soft-reset string; on COLOR blanking, suspend, resume,
set_contrast, set_pixel_format, set_orientation, set_brightness and get_capabilities. -/
def Obligations.SettingsKeepThePixelStore : Prop :=
  (∀ (i : Instr) (s t : State), ((∃ v, i = .monoSetContrast v) ∨ (∃ f, i = .monoSetPixelFormat f) ∨
      (∃ o, i = .monoSetOrientation o) ∨ (∃ b, i = .monoSetBrightness b) ∨ i = .monoGetCapabilities ∨
      (∃ c, i = .monoFill c) ∨
      s.mcfg.supplyGpio = none ∧
        (i = .monoSuspend ∨ i = .monoResume ∨ i = .monoBlankingOn ∨ i = .monoBlankingOff)) →
    s.mop = MonoOps.spec → s.mono.regs.indeterminate = false → s.mono.panel.settled = true →
    s.mono.env.xfer.head = true → exec i s = .next t →
    (∀ e ∈ t.mono.regs.trace.drop s.mono.regs.trace.length, e.act ≠ .xfer .cmd s.k.monoSoftResetCmd) →
    ∀ a, Memory.read t.mono.panel.cells a = Memory.read s.mono.panel.cells a) ∧
  (∀ (i : Instr) (s t : State), (i = .colorBlankingOn ∨ i = .colorBlankingOff ∨ i = .colorSuspend ∨
      i = .colorResume ∨ i = .colorGetCapabilities ∨ (∃ v, i = .colorSetContrast v) ∨
      (∃ f, i = .colorSetPixelFormat f) ∨ (∃ o, i = .colorSetOrientation o) ∨ ∃ b, i = .colorSetBrightness b) →
    s.cop = ColorOps.spec → s.color.panel.pending = [] → s.color.regs.indeterminate = false →
    s.color.panel.settled = true → s.color.env.xfer.head = true → exec i s = .next t →
    ∀ a, Memory.read t.color.panel.cells a = Memory.read s.color.panel.cells a)

/-! ## The bus -/

/-- The frame of a transfer on each bus (the spec's general knowledge): on I2C the address byte, the control byte and the
bytes in order between start and stop; on SPI, within one chip-select, the bits of the bytes, bit 7 of each first.
That the data/command line is driven before the chip select is the model's choice (log 13). -/
def Obligations.FramesCarryTheBytes : Prop :=
  (∀ (addr : BitVec 7) (f : Kind) (s : List Byte),
    frame (.i2c addr) f s = .start :: .byte (BitVec.ofNat 8 (2 * addr.toNat)) ::
      .byte (if f = .cmd then 0x00 else 0x40) :: (s.map BusEvent.byte ++ [.stop])) ∧
  (∀ (f : Kind) (s : List Byte), ∃ bits : List Bool,
    frame .spi f s = .dataCommand (decide (f = .data)) :: .select :: (bits.map BusEvent.bit ++ [.deselect]) ∧
    bits.length = 8 * s.length ∧
    ∀ (n : Nat) (hn : n < s.length) (j : Nat), j < 8 → bits[8 * n + j]? = some (s[n].getLsbD (7 - j)))
end

