-- ==== Sys2Proof/Laws/Memory.lean ====
section
/-!
SUPPORT. The pixel store: reading after writing, and that every operation keeps the canonical form.
-/

namespace Sys2Proof.Machine

/-! ## Reading after writing -/

@[simp] theorem Memory.read_write_self (m : Memory) (a : Nat) (v : Byte) :
    Memory.read (Memory.write m a v) a = some v := by
  induction m with
  | nil => simp [Memory.write, Memory.read]
  | cons c m ih =>
    simp only [Memory.write]
    split
    · simp [Memory.read]
    · split
      · simp [Memory.read]
      · next h => simp [Memory.read, h, ih]

theorem Memory.read_write_other (m : Memory) {a b : Nat} (v : Byte) (h : b ≠ a) :
    Memory.read (Memory.write m a v) b = Memory.read m b := by
  induction m with
  | nil => simp [Memory.write, Memory.read, h]
  | cons c m ih =>
    simp only [Memory.write]
    split
    · simp [Memory.read, h]
    · split
      · next h1 h2 => subst h2; simp [Memory.read, h]
      · simp only [Memory.read]
        split <;> simp_all

/-! ## The canonical form, as a list of rising addresses -/

/-- The canonical form says that the addresses rise strictly all along the list. -/
theorem Memory.wf_iff (m : Memory) : Memory.wf m = true ↔ m.Pairwise (fun c d => c.1 < d.1) := by
  induction m with
  | nil => simp [Memory.wf]
  | cons c m ih =>
    cases m with
    | nil => simp [Memory.wf]
    | cons d m =>
      have hrest : Memory.wf (d :: m) = true ↔ (d :: m).Pairwise (fun c d => c.1 < d.1) := ih
      simp only [Memory.wf, Bool.and_eq_true, decide_eq_true_eq, hrest, List.pairwise_cons, List.mem_cons,
        forall_eq_or_imp]
      constructor
      · rintro ⟨hcd, hd, hm⟩
        exact ⟨⟨hcd, fun e he => lt_trans hcd (hd e he)⟩, hd, hm⟩
      · rintro ⟨⟨hcd, -⟩, hd, hm⟩
        exact ⟨hcd, hd, hm⟩

theorem Memory.mem_write (m : Memory) (a : Nat) (v : Byte) (c : Host.Cell) :
    c ∈ Memory.write m a v → c.1 = a ∨ c ∈ m := by
  induction m with
  | nil => intro h; simp [Memory.write] at h; simp [h]
  | cons d m ih =>
    intro h
    simp only [Memory.write] at h
    split at h
    · rcases List.mem_cons.1 h with rfl | h
      · exact .inl rfl
      · exact .inr h
    · split at h
      · rcases List.mem_cons.1 h with rfl | h
        · exact .inl rfl
        · exact .inr (List.mem_cons_of_mem _ h)
      · rcases List.mem_cons.1 h with rfl | h
        · exact .inr (List.mem_cons_self ..)
        · rcases ih h with h | h
          · exact .inl h
          · exact .inr (List.mem_cons_of_mem _ h)

theorem Memory.wf_write {m : Memory} (a : Nat) (v : Byte) (h : Memory.wf m = true) :
    Memory.wf (Memory.write m a v) = true := by
  rw [Memory.wf_iff] at *
  induction m with
  | nil => simp [Memory.write]
  | cons c m ih =>
    rw [List.pairwise_cons] at h
    obtain ⟨hc, hm⟩ := h
    simp only [Memory.write]
    split
    · next hlt =>
      refine List.pairwise_cons.2 ⟨?_, List.pairwise_cons.2 ⟨hc, hm⟩⟩
      intro d hd
      rcases List.mem_cons.1 hd with rfl | hd
      · exact hlt
      · exact lt_trans hlt (hc d hd)
    · split
      · next heq => exact List.pairwise_cons.2 ⟨fun d hd => heq ▸ hc d hd, hm⟩
      · next hlt hne =>
        refine List.pairwise_cons.2 ⟨fun d hd => ?_, ih hm⟩
        rcases Memory.mem_write m a v d hd with h | h
        · omega
        · exact hc d h

theorem Memory.erase_sublist (m : Memory) (a : Nat) : (Memory.erase m a).Sublist m := by
  induction m with
  | nil => exact List.Sublist.refl _
  | cons c m ih =>
    simp only [Memory.erase]
    split
    · exact List.sublist_cons_self ..
    · exact ih.cons_cons c

theorem Memory.wf_erase {m : Memory} (a : Nat) (h : Memory.wf m = true) :
    Memory.wf (Memory.erase m a) = true := by
  rw [Memory.wf_iff] at *
  exact h.sublist (Memory.erase_sublist m a)

theorem Memory.wf_writeAll (vs : List Byte) {m : Memory} (a : Nat) (h : Memory.wf m = true) :
    Memory.wf (Memory.writeAll m a vs) = true := by
  induction vs generalizing m a with
  | nil => exact h
  | cons v vs ih => exact ih _ (Memory.wf_write a v h)

theorem Memory.wf_eraseAll (len : Nat) {m : Memory} (a : Nat) (h : Memory.wf m = true) :
    Memory.wf (Memory.eraseAll m a len) = true := by
  induction len generalizing m a with
  | zero => exact h
  | succ len ih => exact ih _ (Memory.wf_erase a h)

end Sys2Proof.Machine
end

