-- ==== Sys2Proof/Laws/Panel.lean ====
section
/-!
SUPPORT. The panels' sinks keep the canonical form of their pixel stores, whatever they receive.
-/

namespace Sys2Proof.Machine

/-! ## MONO -/

theorem MonoPanel.wf_unknown (p : MonoPanel) : Memory.wf p.unknown.cells = true := rfl

theorem MonoPanel.wf_command (cfg : MonoCfg) {p : MonoPanel} (i : Instr) (h : Memory.wf p.cells = true) :
    Memory.wf (p.command cfg i).cells = true := by
  unfold MonoPanel.command MonoPanel.pageCommand MonoPanel.rangeCommand
  cases cfg.chip <;> simp only <;> split <;> first | exact h | rfl | (split <;> first | exact h | rfl)

theorem MonoPanel.wf_commands (cfg : MonoCfg) (fuel : Nat) (s : List Byte) {p : MonoPanel}
    (h : Memory.wf p.cells = true) : Memory.wf (MonoPanel.commands cfg fuel s p).cells = true := by
  induction fuel generalizing s p with
  | zero => cases s with
    | nil => exact h
    | cons => rfl
  | succ fuel ih => cases s with
    | nil => exact h
    | cons b bs =>
      simp only [MonoPanel.commands]
      split
      · exact ih _ (MonoPanel.wf_command cfg _ h)
      · rfl

theorem MonoPanel.wf_pageByte {p : MonoPanel} (v : Byte) (h : Memory.wf p.cells = true) :
    Memory.wf (p.pageByte v).cells = true := by
  unfold MonoPanel.pageByte
  split
  · exact Memory.wf_write _ _ h
  · rfl

theorem MonoPanel.wf_windowByte {p : MonoPanel} (v : Byte) (h : Memory.wf p.cells = true) :
    Memory.wf (p.windowByte v).cells = true := by
  unfold MonoPanel.windowByte
  split
  · dsimp only
    split <;> exact Memory.wf_write _ _ h
  · rfl

theorem MonoPanel.wf_foldl_windowByte (s : List Byte) {p : MonoPanel} (h : Memory.wf p.cells = true) :
    Memory.wf (s.foldl MonoPanel.windowByte p).cells = true := by
  induction s generalizing p with
  | nil => exact h
  | cons v s ih => exact ih (MonoPanel.wf_windowByte v h)

/-- A payload no longer than the ranges hold goes byte by byte where R126 says. -/
theorem MonoPanel.windowPayload_fits (s : List Byte) (p : MonoPanel) (h : ∀ n, p.holds = some n → s.length ≤ n) :
    MonoPanel.windowPayload s p = s.foldl MonoPanel.windowByte p := by
  unfold MonoPanel.windowPayload
  split
  · rename_i n hn
    rw [if_neg (Nat.not_lt.2 (h n hn))]
  · rfl

theorem MonoPanel.wf_windowPayload (s : List Byte) {p : MonoPanel} (h : Memory.wf p.cells = true) :
    Memory.wf (MonoPanel.windowPayload s p).cells = true := by
  unfold MonoPanel.windowPayload
  split
  · split
    · rfl
    · exact MonoPanel.wf_foldl_windowByte s h
  · exact MonoPanel.wf_foldl_windowByte s h

theorem MonoPanel.wf_foldl_pageByte (s : List Byte) {p : MonoPanel} (h : Memory.wf p.cells = true) :
    Memory.wf (s.foldl MonoPanel.pageByte p).cells = true := by
  induction s generalizing p with
  | nil => exact h
  | cons v s ih => exact ih (MonoPanel.wf_pageByte v h)

theorem MonoPanel.wf_payload (chip : Chip) (s : List Byte) {p : MonoPanel} (h : Memory.wf p.cells = true) :
    Memory.wf (p.payload chip s).cells = true := by
  cases chip
  · exact MonoPanel.wf_windowPayload s h
  · exact MonoPanel.wf_foldl_pageByte s h
  · exact MonoPanel.wf_windowPayload s h

/-- A MONO panel keeps the canonical form of its store. -/
theorem MonoPanel.wf_receive (k : Consts) (cfg : MonoCfg) {p : MonoPanel} (e : Entry)
    (h : Memory.wf p.cells = true) : Memory.wf (p.receive k cfg e).cells = true := by
  unfold MonoPanel.receive
  split
  · split
    · rfl
    · split
      · rfl
      · split
        · split
          · rfl
          · exact MonoPanel.wf_commands _ _ _ h
        · exact MonoPanel.wf_payload _ _ h
  all_goals first | exact h | rfl

/-- A failed transfer leaves nothing known of a MONO panel's store. -/
theorem MonoPanel.receive_failed (k : Consts) (cfg : MonoCfg) (p : MonoPanel) (f : Kind) (s : List Byte) :
    (p.receive k cfg ⟨.xfer f s, false⟩).cells = [] := rfl

/-- A delay settles a MONO panel and does nothing else to it. -/
theorem MonoPanel.receive_delay (k : Consts) (cfg : MonoCfg) (p : MonoPanel) (t : Nat) :
    p.receive k cfg ⟨.delay t, true⟩ = { p with settled := true } := rfl

/-! ## COLOR -/

theorem ColorPanel.wf_dropPartial (ps : Nat) {p : ColorPanel} (h : Memory.wf p.cells = true) :
    Memory.wf (p.dropPartial ps).cells = true := by
  unfold ColorPanel.dropPartial
  dsimp only
  split
  · exact h
  · exact Memory.wf_eraseAll _ _ h

theorem ColorPanel.wf_command (ps : Nat) {p : ColorPanel} (op : Byte) (h : Memory.wf p.cells = true) :
    Memory.wf (p.command ps op).cells = true := by
  have hd := ColorPanel.wf_dropPartial ps h
  unfold ColorPanel.command
  split
  · rfl
  · dsimp only
    split
    · rfl
    · split <;> exact hd

theorem ColorPanel.wf_streamByte (cfg : ColorCfg) {p : ColorPanel} (v : Byte) (h : Memory.wf p.cells = true) :
    Memory.wf (p.streamByte cfg v).cells = true := by
  unfold ColorPanel.streamByte
  split
  · dsimp only
    split
    · unfold ColorPanel.advance
      split <;> exact Memory.wf_writeAll _ _ h
    · exact h
  · rfl

theorem ColorPanel.wf_foldl (cfg : ColorCfg) (s : List Byte) {p : ColorPanel} (h : Memory.wf p.cells = true) :
    Memory.wf (s.foldl (ColorPanel.streamByte cfg) p).cells = true := by
  induction s generalizing p with
  | nil => exact h
  | cons v s ih => exact ih (ColorPanel.wf_streamByte cfg v h)

theorem ColorPanel.wf_data (cfg : ColorCfg) (s : List Byte) {p : ColorPanel} (h : Memory.wf p.cells = true) :
    Memory.wf (p.data cfg s).cells = true := by
  unfold ColorPanel.data
  split
  · split
    · exact h
    · rfl
  · split
    · split
      · exact h
      · rfl
    · split
      · exact h
      · split
        · exact ColorPanel.wf_foldl cfg s h
        · exact h

theorem ColorPanel.wf_foldl_command (ps : Nat) (s : List Byte) {p : ColorPanel} (h : Memory.wf p.cells = true) :
    Memory.wf (s.foldl (ColorPanel.command ps) p).cells = true := by
  induction s generalizing p with
  | nil => exact h
  | cons op s ih => exact ih (ColorPanel.wf_command ps op h)

/-- A COLOR panel keeps the canonical form of its store. -/
theorem ColorPanel.wf_receive (cfg : ColorCfg) {p : ColorPanel} (e : Entry) (h : Memory.wf p.cells = true) :
    Memory.wf (p.receive cfg e).cells = true := by
  unfold ColorPanel.receive
  split
  · split
    · rfl
    · split
      · exact ColorPanel.wf_foldl_command _ _ h
      · split
        · rfl
        · exact ColorPanel.wf_data cfg _ h
  all_goals first | exact h | rfl

/-- A failed transfer leaves nothing known of a COLOR panel's store. -/
theorem ColorPanel.receive_failed (cfg : ColorCfg) (p : ColorPanel) (f : Kind) (s : List Byte) :
    (p.receive cfg ⟨.xfer f s, false⟩).cells = [] := rfl

/-- A delay settles a COLOR panel and does nothing else to it. -/
theorem ColorPanel.receive_delay (cfg : ColorCfg) (p : ColorPanel) (t : Nat) :
    p.receive cfg ⟨.delay t, true⟩ = { p with settled := true } := rfl

end Sys2Proof.Machine
end

