-- ==== Sys2Proof/Laws/State.lean ====
section
/-!
SUPPORT. What each register update leaves in each register: one lemma per field per update, true by rfl, so that
no proof unfolds a record update.
-/

namespace Sys2Proof.Machine


/-! ## `Regs.begin` -/

@[simp] theorem Regs.begin_phase (q : Regs) : q.begin.phase = q.phase := rfl
@[simp] theorem Regs.begin_indeterminate (q : Regs) : q.begin.indeterminate = q.indeterminate := rfl
@[simp] theorem Regs.begin_dispOn (q : Regs) : q.begin.dispOn = q.dispOn := rfl
@[simp] theorem Regs.begin_asleep (q : Regs) : q.begin.asleep = q.asleep := rfl
@[simp] theorem Regs.begin_pf (q : Regs) : q.begin.pf = q.pf := rfl
@[simp] theorem Regs.begin_backlightLevel (q : Regs) : q.begin.backlightLevel = q.backlightLevel := rfl
@[simp] theorem Regs.begin_resetLine (q : Regs) : q.begin.resetLine = q.resetLine := rfl
@[simp] theorem Regs.begin_supplyLine (q : Regs) : q.begin.supplyLine = q.supplyLine := rfl
@[simp] theorem Regs.begin_blLine (q : Regs) : q.begin.blLine = q.blLine := rfl
@[simp] theorem Regs.begin_pwmSetting (q : Regs) : q.begin.pwmSetting = q.pwmSetting := rfl
@[simp] theorem Regs.begin_apc (q : Regs) : q.begin.apc = some 0 := rfl
@[simp] theorem Regs.begin_n (q : Regs) : q.begin.n = q.n := rfl
@[simp] theorem Regs.begin_r (q : Regs) : q.begin.r = q.r := rfl
@[simp] theorem Regs.begin_yf (q : Regs) : q.begin.yf = q.yf := rfl
@[simp] theorem Regs.begin_pix (q : Regs) : q.begin.pix = q.pix := rfl
@[simp] theorem Regs.begin_trace (q : Regs) : q.begin.trace = q.trace := rfl

/-! ## `Regs.advance` -/

@[simp] theorem Regs.advance_phase (q : Regs) : q.advance.phase = q.phase := rfl
@[simp] theorem Regs.advance_indeterminate (q : Regs) : q.advance.indeterminate = q.indeterminate := rfl
@[simp] theorem Regs.advance_dispOn (q : Regs) : q.advance.dispOn = q.dispOn := rfl
@[simp] theorem Regs.advance_asleep (q : Regs) : q.advance.asleep = q.asleep := rfl
@[simp] theorem Regs.advance_pf (q : Regs) : q.advance.pf = q.pf := rfl
@[simp] theorem Regs.advance_backlightLevel (q : Regs) : q.advance.backlightLevel = q.backlightLevel := rfl
@[simp] theorem Regs.advance_resetLine (q : Regs) : q.advance.resetLine = q.resetLine := rfl
@[simp] theorem Regs.advance_supplyLine (q : Regs) : q.advance.supplyLine = q.supplyLine := rfl
@[simp] theorem Regs.advance_blLine (q : Regs) : q.advance.blLine = q.blLine := rfl
@[simp] theorem Regs.advance_pwmSetting (q : Regs) : q.advance.pwmSetting = q.pwmSetting := rfl
@[simp] theorem Regs.advance_apc (q : Regs) : q.advance.apc = q.apc.map (· + 1) := rfl
@[simp] theorem Regs.advance_n (q : Regs) : q.advance.n = q.n := rfl
@[simp] theorem Regs.advance_r (q : Regs) : q.advance.r = q.r := rfl
@[simp] theorem Regs.advance_yf (q : Regs) : q.advance.yf = q.yf := rfl
@[simp] theorem Regs.advance_pix (q : Regs) : q.advance.pix = q.pix := rfl
@[simp] theorem Regs.advance_trace (q : Regs) : q.advance.trace = q.trace := rfl

/-! ## `Regs.finish` -/

@[simp] theorem Regs.finish_phase (q : Regs) : q.finish.phase = q.phase := rfl
@[simp] theorem Regs.finish_indeterminate (q : Regs) : q.finish.indeterminate = q.indeterminate := rfl
@[simp] theorem Regs.finish_dispOn (q : Regs) : q.finish.dispOn = q.dispOn := rfl
@[simp] theorem Regs.finish_asleep (q : Regs) : q.finish.asleep = q.asleep := rfl
@[simp] theorem Regs.finish_pf (q : Regs) : q.finish.pf = q.pf := rfl
@[simp] theorem Regs.finish_backlightLevel (q : Regs) : q.finish.backlightLevel = q.backlightLevel := rfl
@[simp] theorem Regs.finish_resetLine (q : Regs) : q.finish.resetLine = q.resetLine := rfl
@[simp] theorem Regs.finish_supplyLine (q : Regs) : q.finish.supplyLine = q.supplyLine := rfl
@[simp] theorem Regs.finish_blLine (q : Regs) : q.finish.blLine = q.blLine := rfl
@[simp] theorem Regs.finish_pwmSetting (q : Regs) : q.finish.pwmSetting = q.pwmSetting := rfl
@[simp] theorem Regs.finish_apc (q : Regs) : q.finish.apc = none := rfl
@[simp] theorem Regs.finish_n (q : Regs) : q.finish.n = none := rfl
@[simp] theorem Regs.finish_r (q : Regs) : q.finish.r = none := rfl
@[simp] theorem Regs.finish_yf (q : Regs) : q.finish.yf = none := rfl
@[simp] theorem Regs.finish_pix (q : Regs) : q.finish.pix = none := rfl
@[simp] theorem Regs.finish_trace (q : Regs) : q.finish.trace = q.trace := rfl

/-! ## `Regs.record` -/

@[simp] theorem Regs.record_phase (q : Regs) (e : Entry) : (q.record e).phase = q.phase := rfl
@[simp] theorem Regs.record_indeterminate (q : Regs) (e : Entry) : (q.record e).indeterminate = q.indeterminate := rfl
@[simp] theorem Regs.record_dispOn (q : Regs) (e : Entry) : (q.record e).dispOn = q.dispOn := rfl
@[simp] theorem Regs.record_asleep (q : Regs) (e : Entry) : (q.record e).asleep = q.asleep := rfl
@[simp] theorem Regs.record_pf (q : Regs) (e : Entry) : (q.record e).pf = q.pf := rfl
@[simp] theorem Regs.record_backlightLevel (q : Regs) (e : Entry) :
    (q.record e).backlightLevel = q.backlightLevel := rfl
@[simp] theorem Regs.record_resetLine (q : Regs) (e : Entry) : (q.record e).resetLine = q.resetLine := rfl
@[simp] theorem Regs.record_supplyLine (q : Regs) (e : Entry) : (q.record e).supplyLine = q.supplyLine := rfl
@[simp] theorem Regs.record_blLine (q : Regs) (e : Entry) : (q.record e).blLine = q.blLine := rfl
@[simp] theorem Regs.record_pwmSetting (q : Regs) (e : Entry) : (q.record e).pwmSetting = q.pwmSetting := rfl
@[simp] theorem Regs.record_apc (q : Regs) (e : Entry) : (q.record e).apc = q.apc := rfl
@[simp] theorem Regs.record_n (q : Regs) (e : Entry) : (q.record e).n = q.n := rfl
@[simp] theorem Regs.record_r (q : Regs) (e : Entry) : (q.record e).r = q.r := rfl
@[simp] theorem Regs.record_yf (q : Regs) (e : Entry) : (q.record e).yf = q.yf := rfl
@[simp] theorem Regs.record_pix (q : Regs) (e : Entry) : (q.record e).pix = q.pix := rfl
@[simp] theorem Regs.record_trace (q : Regs) (e : Entry) : (q.record e).trace = q.trace ++ [e] := rfl

/-! ## `Regs.abandon` -/

@[simp] theorem Regs.abandon_phase (q : Regs) (b : Bool) : (q.abandon b).phase = if b then .failed else q.phase := rfl
@[simp] theorem Regs.abandon_indeterminate (q : Regs) (b : Bool) : (q.abandon b).indeterminate = true := rfl
@[simp] theorem Regs.abandon_dispOn (q : Regs) (b : Bool) : (q.abandon b).dispOn = q.dispOn := rfl
@[simp] theorem Regs.abandon_asleep (q : Regs) (b : Bool) : (q.abandon b).asleep = q.asleep := rfl
@[simp] theorem Regs.abandon_pf (q : Regs) (b : Bool) : (q.abandon b).pf = q.pf := rfl
@[simp] theorem Regs.abandon_backlightLevel (q : Regs) (b : Bool) :
    (q.abandon b).backlightLevel = q.backlightLevel := rfl
@[simp] theorem Regs.abandon_resetLine (q : Regs) (b : Bool) : (q.abandon b).resetLine = q.resetLine := rfl
@[simp] theorem Regs.abandon_supplyLine (q : Regs) (b : Bool) : (q.abandon b).supplyLine = q.supplyLine := rfl
@[simp] theorem Regs.abandon_blLine (q : Regs) (b : Bool) : (q.abandon b).blLine = q.blLine := rfl
@[simp] theorem Regs.abandon_pwmSetting (q : Regs) (b : Bool) : (q.abandon b).pwmSetting = q.pwmSetting := rfl
@[simp] theorem Regs.abandon_apc (q : Regs) (b : Bool) : (q.abandon b).apc = q.apc := rfl
@[simp] theorem Regs.abandon_n (q : Regs) (b : Bool) : (q.abandon b).n = q.n := rfl
@[simp] theorem Regs.abandon_r (q : Regs) (b : Bool) : (q.abandon b).r = q.r := rfl
@[simp] theorem Regs.abandon_yf (q : Regs) (b : Bool) : (q.abandon b).yf = q.yf := rfl
@[simp] theorem Regs.abandon_pix (q : Regs) (b : Bool) : (q.abandon b).pix = q.pix := rfl
@[simp] theorem Regs.abandon_trace (q : Regs) (b : Bool) : (q.abandon b).trace = q.trace := rfl

/-! ## `Regs.write`: the register written -/

@[simp] theorem Regs.write_phase_self (q : Regs) (v : Phase) : (q.write (.phase v)).phase = v := rfl
@[simp] theorem Regs.write_indeterminate_self (q : Regs) (v : Bool) :
    (q.write (.indeterminate v)).indeterminate = v := rfl
@[simp] theorem Regs.write_dispOn_self (q : Regs) (v : Bool) : (q.write (.dispOn v)).dispOn = some v := rfl
@[simp] theorem Regs.write_asleep_self (q : Regs) (v : Bool) : (q.write (.asleep v)).asleep = some v := rfl
@[simp] theorem Regs.write_pf_self (q : Regs) (v : Format) : (q.write (.pf v)).pf = v := rfl
@[simp] theorem Regs.write_backlightLevel_self (q : Regs) (v : Byte) :
    (q.write (.backlightLevel v)).backlightLevel = some v := rfl
@[simp] theorem Regs.write_n_self (q : Regs) (v : Nat) : (q.write (.n v)).n = some v := rfl
@[simp] theorem Regs.write_r_self (q : Regs) (v : Nat) : (q.write (.r v)).r = some v := rfl
@[simp] theorem Regs.write_yf_self (q : Regs) (v : Nat) : (q.write (.yf v)).yf = some v := rfl
@[simp] theorem Regs.write_pix_self (q : Regs) (v : List Byte) : (q.write (.pix v)).pix = some v := rfl

/-! ## `Regs.write`: the registers no `x <- v` writes -/

@[simp] theorem Regs.write_resetLine (q : Regs) (w : RegWrite) :
    (q.write w).resetLine = q.resetLine := by cases w <;> rfl
@[simp] theorem Regs.write_supplyLine (q : Regs) (w : RegWrite) :
    (q.write w).supplyLine = q.supplyLine := by cases w <;> rfl
@[simp] theorem Regs.write_blLine (q : Regs) (w : RegWrite) : (q.write w).blLine = q.blLine := by cases w <;> rfl
@[simp] theorem Regs.write_pwmSetting (q : Regs) (w : RegWrite) :
    (q.write w).pwmSetting = q.pwmSetting := by cases w <;> rfl
@[simp] theorem Regs.write_apc (q : Regs) (w : RegWrite) : (q.write w).apc = q.apc := by cases w <;> rfl
@[simp] theorem Regs.write_trace (q : Regs) (w : RegWrite) : (q.write w).trace = q.trace := by cases w <;> rfl

/-! ## `Regs.effect`: an action writes no register but a line shadow -/

@[simp] theorem Regs.effect_phase (q : Regs) (a : Act) : (q.effect a).phase = q.phase := by
  cases a with
  | gpio l v => cases l <;> rfl
  | _ => rfl
@[simp] theorem Regs.effect_indeterminate (q : Regs) (a : Act) : (q.effect a).indeterminate = q.indeterminate := by
  cases a with
  | gpio l v => cases l <;> rfl
  | _ => rfl
@[simp] theorem Regs.effect_dispOn (q : Regs) (a : Act) : (q.effect a).dispOn = q.dispOn := by
  cases a with
  | gpio l v => cases l <;> rfl
  | _ => rfl
@[simp] theorem Regs.effect_asleep (q : Regs) (a : Act) : (q.effect a).asleep = q.asleep := by
  cases a with
  | gpio l v => cases l <;> rfl
  | _ => rfl
@[simp] theorem Regs.effect_pf (q : Regs) (a : Act) : (q.effect a).pf = q.pf := by
  cases a with
  | gpio l v => cases l <;> rfl
  | _ => rfl
@[simp] theorem Regs.effect_backlightLevel (q : Regs) (a : Act) : (q.effect a).backlightLevel = q.backlightLevel := by
  cases a with
  | gpio l v => cases l <;> rfl
  | _ => rfl
@[simp] theorem Regs.effect_apc (q : Regs) (a : Act) : (q.effect a).apc = q.apc := by
  cases a with
  | gpio l v => cases l <;> rfl
  | _ => rfl
@[simp] theorem Regs.effect_n (q : Regs) (a : Act) : (q.effect a).n = q.n := by
  cases a with
  | gpio l v => cases l <;> rfl
  | _ => rfl
@[simp] theorem Regs.effect_r (q : Regs) (a : Act) : (q.effect a).r = q.r := by
  cases a with
  | gpio l v => cases l <;> rfl
  | _ => rfl
@[simp] theorem Regs.effect_yf (q : Regs) (a : Act) : (q.effect a).yf = q.yf := by
  cases a with
  | gpio l v => cases l <;> rfl
  | _ => rfl
@[simp] theorem Regs.effect_pix (q : Regs) (a : Act) : (q.effect a).pix = q.pix := by
  cases a with
  | gpio l v => cases l <;> rfl
  | _ => rfl
@[simp] theorem Regs.effect_trace (q : Regs) (a : Act) : (q.effect a).trace = q.trace := by
  cases a with
  | gpio l v => cases l <;> rfl
  | _ => rfl

end Sys2Proof.Machine
end

