-- ==== Sys2Proof/Laws/Run.lean ====
section
/-!
SUPPORT. What running an operation can do, said once: the pieces of `runMicros`, its closed form when no transfer
fails, and the rule that every invariant of an operation follows from.
-/

namespace Sys2Proof.Machine

variable {π : Type} (sink : π → Entry → π) (b : Bool)

/-! ## Draws -/

theorem Draw.answer_zero (d : Draw) : d.answer 0 = d.head := by
  cases d with | mk script rest => cases script <;> rfl

theorem Draw.answer_tail (d : Draw) (j : Nat) : d.tail.answer j = d.answer (j + 1) := by
  cases d with | mk script rest => cases script <;> simp [Draw.tail, Draw.answer]

@[simp] theorem Draw.dropped_zero (d : Draw) : d.dropped 0 = d := by simp [Draw.dropped]

theorem Draw.tail_dropped (d : Draw) (n : Nat) : d.tail.dropped n = d.dropped (n + 1) := by
  cases d with | mk script rest => simp [Draw.tail, Draw.dropped]

@[simp] theorem xferCount_nil : xferCount [] = 0 := rfl

theorem xferCount_append (es fs : List Entry) : xferCount (es ++ fs) = xferCount es + xferCount fs :=
  List.countP_append ..

theorem xferCount_cons (e : Entry) (es : List Entry) :
    xferCount (e :: es) = xferCount es + if e.act.isXfer then 1 else 0 := by
  simp [xferCount, List.countP_cons]

/-! ## Performing one action -/

/-- A transfer that the transport takes. -/
theorem perform_xfer_ok (f : Kind) (s : List Byte) (q : Inst π) (h : q.env.xfer.head = true) :
    Inst.perform sink (.xfer f s) q = .completed
      { regs := (q.regs.record ⟨.xfer f s, true⟩).advance, env := { q.env with xfer := q.env.xfer.tail },
        panel := sink q.panel ⟨.xfer f s, true⟩ } := by
  simp [Inst.perform, Inst.commit, h, Regs.effect]

/-- A transfer that fails. -/
theorem perform_xfer_err (f : Kind) (s : List Byte) (q : Inst π) (h : q.env.xfer.head = false) :
    Inst.perform sink (.xfer f s) q = .failed
      { regs := q.regs.record ⟨.xfer f s, false⟩, env := { q.env with xfer := q.env.xfer.tail },
        panel := sink q.panel ⟨.xfer f s, false⟩ } := by
  simp [Inst.perform, Inst.commit, h, Regs.effect]

/-- The other actions always complete. -/
theorem perform_other (a : Act) (q : Inst π) (h : a.isXfer = false) :
    Inst.perform sink a q = .completed
      { q with regs := ((q.regs.effect a).record ⟨a, true⟩).advance, panel := sink q.panel ⟨a, true⟩ } := by
  cases a <;> first | rfl | simp [Act.isXfer] at h

/-! ## Sequences -/

/-- Running two sequences one after the other. -/
theorem runMicros_append (ms ns : List Micro) (fin : Final) (q : Inst π) :
    runMicros sink b (ms ++ ns) fin q =
      match runMicros sink b ms (.result .ok) q with
      | .done .ok q' => runMicros sink b ns fin q'
      | .done r q' => .done r q'
      | .fault f => .fault f := by
  induction ms generalizing q with
  | nil => simp [runMicros]
  | cons m ms ih =>
    cases m with
    | set w => simp only [List.cons_append, runMicros, ih]
    | act a =>
      simp only [List.cons_append, runMicros]
      split
      · exact ih _
      · rfl
    | send a n =>
      simp only [List.cons_append, runMicros]
      split
      · rfl
      · split
        · exact ih _
        · rfl

/-- The rule of invariants: what every register write, every completed action and every failed transfer keeps
holds at the end of a sequence, with `P` before the updates of R505 and `F` after them. -/
theorem runMicros_keeps (P F : Inst π → Prop)
    (ms : List Micro) (fin : Final) (q : Inst π) (hP : P q)
    (hset : ∀ w, .set w ∈ ms → ∀ q, P q → P { q with regs := q.regs.write w })
    (hact : ∀ a q q', P q → Inst.perform sink a q = .completed q' → P q')
    (hfail : ∀ a q q', P q → Inst.perform sink a q = .failed q' →
      F { q' with regs := q'.regs.abandon b })
    {r : Result} {q' : Inst π} (h : runMicros sink b ms fin q = .done r q') :
    (fin = .result r ∧ P q') ∨ (r = .busTransferFailure ∧ F q') := by
  induction ms generalizing q with
  | nil =>
    cases fin with
    | result r' =>
      simp only [runMicros, RunResult.done.injEq] at h
      exact .inl ⟨by rw [h.1], h.2 ▸ hP⟩
    | fault f => simp [runMicros] at h
  | cons m ms ih =>
    have hset' : ∀ w, .set w ∈ ms → ∀ q, P q → P { q with regs := q.regs.write w } :=
      fun w hw => hset w (List.mem_cons_of_mem _ hw)
    cases m with
    | set w => exact ih _ (hset w (List.mem_cons_self ..) _ hP) hset' h
    | act a =>
      simp only [runMicros] at h
      split at h
      · next q1 hq => exact ih _ (hact _ _ _ hP hq) hset' h
      · next q1 hq =>
        simp only [RunResult.done.injEq] at h
        exact .inr ⟨h.1.symm, h.2 ▸ hfail _ _ _ hP hq⟩
    | send a n =>
      simp only [runMicros] at h
      split at h
      · simp at h
      · split at h
        · next q1 hq => exact ih _ (hact _ _ _ hP hq) hset' h
        · next q1 hq =>
          simp only [RunResult.done.injEq] at h
          exact .inr ⟨h.1.symm, h.2 ▸ hfail _ _ _ hP hq⟩

/-! ## The closed form when no transfer fails -/

/-- What one element leaves in the trace, over a pixel buffer. -/
def Micro.entries (pix : List Byte) : Micro → List Entry
  | .act a => [⟨a, true⟩]
  | .send a n => [⟨.xfer .data ((pix.drop a).take n), true⟩]
  | .set _ => []

/-- What a sequence leaves in the trace. -/
def entriesOf (pix : List Byte) (ms : List Micro) : List Entry := ms.flatMap (Micro.entries pix)

/-- What one element does to the registers. -/
def Micro.onRegs (pix : List Byte) (q : Regs) : Micro → Regs
  | .act a => ((q.effect a).record ⟨a, true⟩).advance
  | .send a n => (q.record ⟨.xfer .data ((pix.drop a).take n), true⟩).advance
  | .set w => q.write w

/-- The sequence never reads past the buffer and never changes which buffer is in use. -/
def Micro.within (pix : List Byte) : Micro → Prop
  | .act _ => True
  | .send a n => a + n ≤ pix.length
  | .set (.pix _) => False
  | .set _ => True

@[simp] theorem entriesOf_nil (pix : List Byte) : entriesOf pix [] = [] := rfl

@[simp] theorem entriesOf_cons (pix : List Byte) (m : Micro) (ms : List Micro) :
    entriesOf pix (m :: ms) = m.entries pix ++ entriesOf pix ms := rfl

@[simp] theorem entriesOf_append (pix : List Byte) (ms ns : List Micro) :
    entriesOf pix (ms ++ ns) = entriesOf pix ms ++ entriesOf pix ns := List.flatMap_append ..

theorem memRead_some {pix : List Byte} {a n : Nat} (h : a + n ≤ pix.length) :
    memRead (some pix) a n = some ((pix.drop a).take n) := by
  simp [memRead, h]

/-- The closed form: when every transfer of a sequence is taken and every read is inside the buffer in use, the
sequence is performed whole, in order, and ends as it says. -/
theorem runMicros_ok (pix : List Byte) (ms : List Micro) (fin : Final) (q : Inst π)
    (hpix : (∃ a n, .send a n ∈ ms) → q.regs.pix = some pix) (hw : ∀ m ∈ ms, m.within pix) (hok : q.env.okFor (entriesOf pix ms)) :
    runMicros sink b ms fin q = runMicros sink b [] fin
      { regs := ms.foldl (Micro.onRegs pix) q.regs,
        env := { q.env with xfer := q.env.xfer.dropped (xferCount (entriesOf pix ms)) },
        panel := (entriesOf pix ms).foldl sink q.panel } := by
  induction ms generalizing q with
  | nil => simp
  | cons m ms ih =>
    have hw' : ∀ m ∈ ms, m.within pix := fun m hm => hw m (List.mem_cons_of_mem _ hm)
    cases m with
    | set w =>
      have hok' : (Inst.mk (q.regs.write w) q.env q.panel).env.okFor (entriesOf pix ms) := by
        simpa [Micro.entries] using hok
      have hp : (∃ a n, .send a n ∈ ms) → (q.regs.write w).pix = some pix := by
        rintro ⟨a, n, hm⟩
        have h0 := hpix ⟨a, n, List.mem_cons_of_mem _ hm⟩
        have := hw _ (List.mem_cons_self ..)
        cases w <;> first | exact h0 | simp [Micro.within] at this
      rw [runMicros, ih _ hp hw' hok']
      simp [Micro.entries, Micro.onRegs]
    | act a =>
      rw [runMicros]
      by_cases ha : a.isXfer
      · cases a with
        | xfer f s =>
          have h0 : q.env.xfer.head = true := by
            rw [← Draw.answer_zero]
            exact hok 0 (by simp [Micro.entries, xferCount_cons, Act.isXfer])
          rw [perform_xfer_ok sink f s q h0]
          dsimp only
          rw [ih]
          · simp [Micro.entries, Micro.onRegs, xferCount_cons, Act.isXfer, Draw.tail_dropped, Regs.effect]
          · rintro ⟨a, n, hm⟩
            simpa using hpix ⟨a, n, List.mem_cons_of_mem _ hm⟩
          · exact hw'
          · intro j hj
            rw [Draw.answer_tail]
            exact hok (j + 1) (by simpa [Micro.entries, xferCount_cons, Act.isXfer] using hj)
        | _ => simp [Act.isXfer] at ha
      · have ha' : a.isXfer = false := by simpa using ha
        rw [perform_other sink a q ha']
        dsimp only
        rw [ih]
        · simp [Micro.entries, Micro.onRegs, xferCount_cons, ha']
        · rintro ⟨a, n, hm⟩
          simpa using hpix ⟨a, n, List.mem_cons_of_mem _ hm⟩
        · exact hw'
        · intro j hj
          exact hok j (by simpa [Micro.entries, xferCount_cons, ha'] using hj)
    | send a n =>
      have h0 : q.env.xfer.head = true := by
        rw [← Draw.answer_zero]
        exact hok 0 (by simp [Micro.entries, xferCount_cons, Act.isXfer])
      rw [runMicros, hpix ⟨a, n, List.mem_cons_self ..⟩, memRead_some (hw _ (List.mem_cons_self ..))]
      dsimp only
      rw [perform_xfer_ok sink .data _ q h0]
      dsimp only
      rw [ih]
      · simp [Micro.entries, Micro.onRegs, xferCount_cons, Act.isXfer, Draw.tail_dropped]
      · rintro ⟨a, n, hm⟩
        simpa using hpix ⟨a, n, List.mem_cons_of_mem _ hm⟩
      · exact hw'
      · intro j hj
        rw [Draw.answer_tail]
        exact hok (j + 1) (by simpa [Micro.entries, xferCount_cons, Act.isXfer] using hj)

/-! ## Whole operations -/

/-- What one element writes into the registers that outlast the operation. -/
def Micro.lasting (q : Regs) : Micro → Regs
  | .act a => q.effect a
  | .send _ _ => q
  | .set (.n _) | .set (.r _) | .set (.yf _) | .set (.pix _) => q
  | .set (.phase p) => q.write (.phase p)
  | .set (.indeterminate v) => q.write (.indeterminate v)
  | .set (.dispOn v) => q.write (.dispOn v)
  | .set (.asleep v) => q.write (.asleep v)
  | .set (.pf f) => q.write (.pf f)
  | .set (.backlightLevel v) => q.write (.backlightLevel v)

/-- What a sequence writes into the registers that outlast the operation. -/
def lastingOf (ms : List Micro) (q : Regs) : Regs := ms.foldl Micro.lasting q

@[simp] theorem lastingOf_nil (q : Regs) : lastingOf [] q = q := rfl

@[simp] theorem lastingOf_cons (m : Micro) (ms : List Micro) (q : Regs) :
    lastingOf (m :: ms) q = lastingOf ms (m.lasting q) := rfl

@[simp] theorem lastingOf_append (ms ns : List Micro) (q : Regs) :
    lastingOf (ms ++ ns) q = lastingOf ns (lastingOf ms q) := List.foldl_append ..

/-- At its end an operation has written the lasting registers and the trace, and let the working registers go. -/
theorem foldl_onRegs_finish (pix : List Byte) (ms : List Micro) (q : Regs) :
    (ms.foldl (Micro.onRegs pix) q).finish =
      lastingOf ms { q.finish with trace := q.trace ++ entriesOf pix ms } := by
  induction ms generalizing q with
  | nil => simp [Regs.finish]
  | cons m ms ih =>
    rw [List.foldl_cons, ih, lastingOf_cons]
    congr 1
    cases m with
    | act a =>
      cases a with
      | gpio l v => cases l <;> simp [Micro.onRegs, Micro.lasting, Micro.entries, Regs.finish, Regs.effect]
      | _ => simp [Micro.onRegs, Micro.lasting, Micro.entries, Regs.finish, Regs.effect]
    | send a n => simp [Micro.onRegs, Micro.lasting, Micro.entries, Regs.finish]
    | set w => cases w <;> simp [Micro.onRegs, Micro.lasting, Micro.entries, Regs.finish, Regs.write]

theorem Regs.begin_finish {q : Regs} (h : q.idle) : q.begin.finish = q := by
  obtain ⟨h1, h2, h3, h4, h5⟩ := h
  cases q
  simp only at h1 h2 h3 h4 h5
  subst h1 h2 h3 h4 h5
  rfl

/-- A plan that reads no buffer, when its transfers are taken. -/
theorem runPlan_ok (ms : List Micro) (r : Result) (q : Inst π) (h : q.regs.idle)
    (hw : ∀ m ∈ ms, m.within [] ∧ ∀ a n, m ≠ .send a n) (hok : q.env.okFor (entriesOf [] ms)) :
    runPlan sink b ⟨ms, .result r⟩ q = .done r
      { q.after sink (entriesOf [] ms) with regs := lastingOf ms (q.after sink (entriesOf [] ms)).regs } := by
  have e := runMicros_ok sink b [] ms (.result r) { q with regs := q.regs.begin }
    (fun ⟨a, n, hm⟩ => absurd rfl ((hw _ hm).2 a n)) (fun m hm => (hw m hm).1) hok
  unfold runPlan
  dsimp only
  rw [e]
  simp [runMicros, foldl_onRegs_finish, Regs.begin_finish h, Inst.after]

/-- A plan over a pixel buffer, when its transfers are taken and its reads are inside the buffer. -/
theorem runPlan_pix_ok (pix : List Byte) (ms : List Micro) (r : Result) (q : Inst π) (h : q.regs.idle)
    (hw : ∀ m ∈ ms, m.within pix) (hok : q.env.okFor (entriesOf pix ms)) :
    runPlan sink b ⟨.set (.pix pix) :: ms, .result r⟩ q = .done r
      { q.after sink (entriesOf pix ms) with regs := lastingOf ms (q.after sink (entriesOf pix ms)).regs } := by
  have e := runMicros_ok sink b pix ms (.result r) { q with regs := q.regs.begin.write (.pix pix) }
    (fun _ => rfl) hw hok
  unfold runPlan
  dsimp only [runMicros]
  rw [e]
  have hf : (q.regs.begin.write (.pix pix)).finish = q.regs := by
    rw [← Regs.begin_finish h]
    rfl
  simp [runMicros, foldl_onRegs_finish, hf, Inst.after]

/-- A MONO operation that reads no buffer, when its transfers are taken. -/
theorem runMono_ok (ms : List Micro) (r : Result) (s : State) (h : s.mono.regs.idle)
    (hw : ∀ m ∈ ms, m.within [] ∧ ∀ a n, m ≠ .send a n) (hok : s.mono.env.okFor (entriesOf [] ms)) :
    runMono b ⟨ms, .result r⟩ s = .next (s.monoDid (entriesOf [] ms) (lastingOf ms) r) := by
  unfold runMono
  rw [runPlan_ok _ b ms r _ h hw hok]
  rfl

/-- A MONO operation over a pixel buffer, when its transfers are taken. -/
theorem runMono_pix_ok (pix : List Byte) (ms : List Micro) (r : Result) (s : State) (h : s.mono.regs.idle)
    (hw : ∀ m ∈ ms, m.within pix) (hok : s.mono.env.okFor (entriesOf pix ms)) :
    runMono b ⟨.set (.pix pix) :: ms, .result r⟩ s = .next (s.monoDid (entriesOf pix ms) (lastingOf ms) r) := by
  unfold runMono
  rw [runPlan_pix_ok _ b pix ms r _ h hw hok]
  rfl

/-- A COLOR operation that reads no buffer, when its transfers are taken. -/
theorem runColor_ok (ms : List Micro) (r : Result) (s : State) (h : s.color.regs.idle)
    (hw : ∀ m ∈ ms, m.within [] ∧ ∀ a n, m ≠ .send a n) (hok : s.color.env.okFor (entriesOf [] ms)) :
    runColor b ⟨ms, .result r⟩ s = .next (s.colorDid (entriesOf [] ms) (lastingOf ms) r) := by
  unfold runColor
  rw [runPlan_ok _ b ms r _ h hw hok]
  rfl

/-- A COLOR operation over a pixel buffer, when its transfers are taken. -/
theorem runColor_pix_ok (pix : List Byte) (ms : List Micro) (r : Result) (s : State) (h : s.color.regs.idle)
    (hw : ∀ m ∈ ms, m.within pix) (hok : s.color.env.okFor (entriesOf pix ms)) :
    runColor b ⟨.set (.pix pix) :: ms, .result r⟩ s = .next (s.colorDid (entriesOf pix ms) (lastingOf ms) r) := by
  unfold runColor
  rw [runPlan_pix_ok _ b pix ms r _ h hw hok]
  rfl

/-- A plan without actions only hands back its result, on an instance between operations. -/
theorem runPlan_raise (r : Result) (q : Inst π) (h : q.regs.idle) :
    runPlan sink b (.raise r) q = .done r q := by
  obtain ⟨h1, h2, h3, h4, h5⟩ := h
  cases q with | mk regs env panel =>
  cases regs
  simp only at h1 h2 h3 h4 h5
  subst h1 h2 h3 h4 h5
  rfl

/-- A MONO operation ends in a fault or in a next state in which only the MONO instance and the answer differ. -/
theorem runMono_cases (p : Plan) (s : State) :
    (∃ f, runMono b p s = .fault f) ∨
    ∃ r q, runPlan (MonoPanel.receive s.k s.mcfg) b p s.mono = .done r q ∧
      runMono b p s = .next { s with mono := q, answer := some (.result r) } := by
  unfold runMono
  split
  · next r q h => exact .inr ⟨r, q, h, rfl⟩
  · next f _ => exact .inl ⟨f, rfl⟩

/-- A COLOR operation, as for MONO. -/
theorem runColor_cases (p : Plan) (s : State) :
    (∃ f, runColor b p s = .fault f) ∨
    ∃ r q, runPlan (ColorPanel.receive s.ccfg) b p s.color = .done r q ∧
      runColor b p s = .next { s with color := q, answer := some (.result r) } := by
  unfold runColor
  split
  · next r q h => exact .inr ⟨r, q, h, rfl⟩
  · next f _ => exact .inl ⟨f, rfl⟩

end Sys2Proof.Machine
end

