-- ==== Sys2Proof/Laws/Ops.lean ====
section
/-!
SUPPORT. What the shared pieces of the operations do, each said once: plans that only hand back a result, the phase
gate, the readiness check, the COLOR command primitive, the window and the rows of a COLOR write, the pages of a
MONO write, and how a sequence ends at its first failing transfer.
-/

namespace Sys2Proof.Machine

/-! ## Ends without an action -/

/-- A MONO plan without actions hands back its result and changes nothing else. -/
theorem runMono_raise {s : State} (h : s.mono.regs.idle) (b : Bool) (r : Result) :
    runMono b (.raise r) s = .next (s.answered r) := by
  unfold runMono
  rw [runPlan_raise _ _ _ _ h]
  rfl

/-- A COLOR plan without actions hands back its result and changes nothing else. -/
theorem runColor_raise {s : State} (h : s.color.regs.idle) (b : Bool) (r : Result) :
    runColor b (.raise r) s = .next (s.answered r) := by
  unfold runColor
  rw [runPlan_raise _ _ _ _ h]
  rfl

/-- The phase gate lets a plan through in Ready. -/
theorem gate_ready {q : Regs} (p : Plan) (h : q.phase = .ready) : gate q p = p := by
  simp [gate, Regs.isReady, h]

/-- The phase gate stops every plan outside Ready. -/
theorem gate_not_ready {q : Regs} (p : Plan) (h : q.phase ≠ .ready) : gate q p = .raise .deviceNotReady := by
  simp [gate, Regs.isReady, h]

/-! ## Readiness -/

/-- MONO init finds its handles ready exactly when each configured one answers so. -/
theorem readyAll_monoHandles (cfg : MonoCfg) (e : Env) :
    readyAll (monoHandles cfg) e = true ↔ e.bus.head = true ∧ (cfg.resetGpio = true → e.reset.head = true) ∧
      (cfg.supplyGpio.isSome = true → e.supply.head = true) := by
  unfold monoHandles
  cases cfg.resetGpio <;> cases cfg.supplyGpio.isSome <;> simp [readyAll, Env.draw, Env.asked]

/-- COLOR init finds its handles ready exactly when each configured one answers so. -/
theorem readyAll_colorHandles (cfg : ColorCfg) (e : Env) :
    readyAll (colorHandles cfg) e = true ↔ e.bus.head = true ∧ (cfg.resetGpio = true → e.reset.head = true) ∧
      (cfg.blGpio.isSome = true → e.backlight.head = true) := by
  unfold colorHandles
  cases cfg.resetGpio <;> cases cfg.blGpio.isSome <;> simp [readyAll, Env.draw, Env.asked]

/-- Asking handles takes no transfer answer. -/
@[simp] theorem askAll_xfer (hs : List Handle) (e : Env) : (askAll hs e).xfer = e.xfer := by
  induction hs generalizing e with
  | nil => rfl
  | cons h hs ih =>
    unfold askAll
    split
    · rw [ih]
      cases h <;> rfl
    · cases h <;> rfl

/-! ## Answers of the transport -/

/-- A list with no transfer needs no answer. -/
theorem Env.okFor_none {e : Env} {es : List Entry} (h : xferCount es = 0) : e.okFor es := by
  intro j hj
  omega

/-- A list with at most one transfer needs the next answer only. -/
theorem Env.okFor_one {e : Env} {es : List Entry} (h : xferCount es ≤ 1) (hh : e.xfer.head = true) :
    e.okFor es := by
  intro j hj
  obtain rfl : j = 0 := by omega
  rwa [Draw.answer_zero]

/-! ## CMDP -/

@[simp] theorem entriesOf_cmdp (pix : List Byte) (op : Byte) (ps : List Byte) :
    entriesOf pix (cmdp op ps) = cmdpE op ps := by
  unfold cmdp cmdpE
  split <;> rfl

@[simp] theorem lastingOf_cmdp (op : Byte) (ps : List Byte) (q : Regs) : lastingOf (cmdp op ps) q = q := by
  unfold cmdp
  split <;> rfl

/-- CMDP reads no buffer. -/
theorem cmdp_reads_nothing (op : Byte) (ps pix : List Byte) :
    ∀ m ∈ cmdp op ps, m.within pix ∧ ∀ a n, m ≠ .send a n := by
  unfold cmdp
  split <;> simp [cmd, dat, Micro.within]

/-! ## A COLOR write's window and rows -/

/-- Setting the window writes no lasting register. -/
@[simp] theorem lastingOf_colorWindow (op : ColorOps) (cfg : ColorCfg) (x y : Nat) (d : Rect) (q : Regs) :
    lastingOf (colorWindow op cfg x y d) q = q := by
  simp [colorWindow, cmd, Micro.lasting, Regs.effect]

/-- Setting the window reads no buffer. -/
theorem colorWindow_reads_nothing (op : ColorOps) (cfg : ColorCfg) (x y : Nat) (d : Rect) (pix : List Byte) :
    ∀ m ∈ colorWindow op cfg x y d, m.within pix ∧ ∀ a n, m ≠ .send a n := by
  simp only [colorWindow, List.mem_append]
  rintro m ((h | h) | h)
  · exact cmdp_reads_nothing _ _ _ _ h
  · exact cmdp_reads_nothing _ _ _ _ h
  · simp only [List.mem_singleton] at h
    subst h
    simp [cmd, Micro.within]

/-- The rows of a strided write: one transfer a row, nothing written, and all reads inside a buffer that holds the
rows. -/
theorem colorRows_spec (pix : List Byte) (ps width pitch r left : Nat) :
    entriesOf pix (colorRows ps width pitch r left) =
      (List.range' r left).map (fun r => datE ((pix.drop (r * pitch * ps)).take (width * ps))) ∧
    (∀ q, lastingOf (colorRows ps width pitch r left) q = q) ∧
    ((∀ j, j < left → (r + j) * pitch * ps + width * ps ≤ pix.length) →
      ∀ m ∈ colorRows ps width pitch r left, m.within pix) := by
  induction left generalizing r with
  | zero => exact ⟨rfl, fun _ => rfl, by simp [colorRows]⟩
  | succ left ih =>
    obtain ⟨h1, h2, h3⟩ := ih (r + 1)
    refine ⟨by simp [colorRows, Micro.entries, h1, List.range'_succ, datE],
      fun q => by simp [colorRows, h2, Micro.lasting], fun h m hm => ?_⟩
    simp only [colorRows, List.cons_append, List.nil_append, List.mem_cons] at hm
    rcases hm with rfl | rfl | hm
    · trivial
    · exact h 0 (by omega)
    · refine h3 (fun j hj => ?_) m hm
      have h4 := h (j + 1) (by omega)
      rwa [show r + 1 + j = r + (j + 1) by omega]

/-- The bytes a COLOR write reads, by one formula for both streams. -/
theorem bytesNeeded_eq (ps : Nat) (d : Rect) (h : d.height ≠ 0) :
    bytesNeeded ps d = ((d.height - 1) * d.pitch + d.width) * ps := by
  unfold bytesNeeded
  split
  · next he =>
    rw [he]
    congr 1
    obtain ⟨k, hk⟩ : ∃ k, d.height = k + 1 := ⟨d.height - 1, by omega⟩
    rw [hk]
    simp
    ring
  · rfl

/-! ## The pages of a MONO write on an SH1106 -/

/-- Pages the declared length covers are all sent, the triple and then `width` bytes of each. -/
theorem monoQuirkPages_covered (op : MonoOps) (c : Byte) (y width len : Nat) (pix : List Byte) (n left : Nat)
    (h : (n + left) * width ≤ len) :
    ∃ ms, monoQuirkPages op c y width len n left = ⟨ms, .result .ok⟩ ∧
      ((n + left) * width ≤ pix.length → ∀ m ∈ ms, m.within pix) ∧
      entriesOf pix ms = (List.range' n left).flatMap (fun n =>
        [cmdE (pageTriple op c (n + y / 8)), datE ((pix.drop (n * width)).take width)]) ∧
      ∀ q, lastingOf ms q = q := by
  induction left generalizing n with
  | zero => exact ⟨[], rfl, by simp, rfl, fun _ => rfl⟩
  | succ left ih =>
    have hshift : n + 1 + left = n + (left + 1) := by omega
    obtain ⟨ms, h1, h2, h3, h4⟩ := ih (n + 1) (by rw [hshift]; exact h)
    have hle : (n + 1) * width ≤ (n + (left + 1)) * width := Nat.mul_le_mul_right _ (by omega)
    refine ⟨_, by rw [monoQuirkPages, if_neg (by omega), h1]; rfl, fun hp => ?_, ?_, fun q => ?_⟩
    · have hw := h2 (by rw [hshift]; exact hp)
      have hin : n * width + width ≤ pix.length := by rw [Nat.succ_mul] at hle; omega
      simpa [Micro.within, cmd, hin] using hw
    · simp [Micro.entries, h3, List.range'_succ, cmd, cmdE, datE]
    · simp [h4, Micro.lasting, cmd, Regs.effect]

/-- The first page the declared length does not cover ends the write in GeometryViolation, after the pages before it. -/
theorem monoQuirkPages_guard (op : MonoOps) (c : Byte) (y width len : Nat) (pix : List Byte) (n count left : Nat)
    (hlt : count < left) (h : (n + count) * width ≤ len) (hs : len < (n + count + 1) * width) :
    ∃ ms, monoQuirkPages op c y width len n left = ⟨ms, .result .geometryViolation⟩ ∧
      ((n + count) * width ≤ pix.length → ∀ m ∈ ms, m.within pix) ∧
      entriesOf pix ms = (List.range' n count).flatMap (fun n =>
        [cmdE (pageTriple op c (n + y / 8)), datE ((pix.drop (n * width)).take width)]) ∧
      ∀ q, lastingOf ms q = q := by
  induction count generalizing n left with
  | zero =>
    obtain ⟨left, rfl⟩ : ∃ k, left = k + 1 := ⟨left - 1, by omega⟩
    exact ⟨[.set (.n n)], by rw [monoQuirkPages, if_pos (by simpa using hs)], by simp [Micro.within], rfl,
      fun _ => rfl⟩
  | succ count ih =>
    obtain ⟨left, rfl⟩ : ∃ k, left = k + 1 := ⟨left - 1, by omega⟩
    have hshift : n + 1 + count = n + (count + 1) := by omega
    obtain ⟨ms, h1, h2, h3, h4⟩ :=
      ih (n + 1) left (by omega) (by rw [hshift]; exact h) (by rw [hshift]; exact hs)
    have hle : (n + 1) * width ≤ (n + (count + 1)) * width := Nat.mul_le_mul_right _ (by omega)
    refine ⟨_, by rw [monoQuirkPages, if_neg (by omega), h1]; rfl, fun hp => ?_, ?_, fun q => ?_⟩
    · have hw := h2 (by rw [hshift]; exact hp)
      have hin : n * width + width ≤ pix.length := by rw [Nat.succ_mul] at hle; omega
      simpa [Micro.within, cmd, hin] using hw
    · simp [Micro.entries, h3, List.range'_succ, cmd, cmdE, datE]
    · simp [h4, Micro.lasting, cmd, Regs.effect]

/-! ## The first failing transfer -/

/-- A sequence whose transfers are not all taken ends at the first that fails: what was performed before it stands, it is
recorded as failed, and the updates of R505 follow. -/
theorem runMicros_fails {π : Type} (sink : π → Entry → π) (b : Bool) (pix : List Byte) (ms : List Micro) (fin : Final)
    (q : Inst π) (hpix : (∃ a n, .send a n ∈ ms) → q.regs.pix = some pix) (hw : ∀ m ∈ ms, m.within pix)
    (hok : ¬ q.env.okFor (entriesOf pix ms)) :
    ∃ ms₁ m ms₂ e q', ms = ms₁ ++ m :: ms₂ ∧ m.entries pix = [e] ∧ e.act.isXfer = true ∧
      q.env.okFor (entriesOf pix ms₁) ∧ q.env.xfer.answer (xferCount (entriesOf pix ms₁)) = false ∧
      runMicros sink b ms fin q = .done .busTransferFailure q' ∧
      q'.regs = ((ms₁.foldl (Micro.onRegs pix) q.regs).record { e with ok := false }).abandon b := by
  induction ms generalizing q with
  | nil => exact absurd (Env.okFor_none rfl) hok
  | cons m ms ih =>
    have hw' : ∀ m ∈ ms, m.within pix := fun m hm => hw m (List.mem_cons_of_mem _ hm)
    have hpix' : (∃ a n, .send a n ∈ ms) → q.regs.pix = some pix :=
      fun ⟨a, n, h⟩ => hpix ⟨a, n, List.mem_cons_of_mem _ h⟩
    have later : ∀ q₁ : Inst π, q₁.regs = Micro.onRegs pix q.regs m →
        runMicros sink b (m :: ms) fin q = runMicros sink b ms fin q₁ →
        ((∃ a n, .send a n ∈ ms) → q₁.regs.pix = some pix) →
        (∀ es, q₁.env.okFor es ↔ q.env.okFor (m.entries pix ++ es)) →
        (∀ es, q₁.env.xfer.answer (xferCount es) = q.env.xfer.answer (xferCount (m.entries pix ++ es))) →
        ∃ ms₁ m' ms₂ e q', m :: ms = ms₁ ++ m' :: ms₂ ∧ m'.entries pix = [e] ∧ e.act.isXfer = true ∧
          q.env.okFor (entriesOf pix ms₁) ∧ q.env.xfer.answer (xferCount (entriesOf pix ms₁)) = false ∧
          runMicros sink b (m :: ms) fin q = .done .busTransferFailure q' ∧
          q'.regs = ((ms₁.foldl (Micro.onRegs pix) q.regs).record { e with ok := false }).abandon b := by
      intro q₁ hq₁ hrun hp₁ ho ha
      obtain ⟨ms₁, m', ms₂, e, q', h1, h2, h3, h4, h5, h6, h7⟩ := ih q₁ hp₁ hw' (by rw [ho]; exact hok)
      exact ⟨m :: ms₁, m', ms₂, e, q', by rw [h1]; rfl, h2, h3, (ho _).1 h4, by rw [entriesOf_cons, ← ha]; exact h5,
        by rw [hrun, h6], by rw [h7, hq₁]; rfl⟩
    have transfer : ∀ f s, m.entries pix = [⟨.xfer f s, true⟩] →
        (runMicros sink b (m :: ms) fin q =
          match Inst.perform sink (.xfer f s) q with
          | .completed q' => runMicros sink b ms fin q'
          | .failed q' => .done .busTransferFailure { q' with regs := q'.regs.abandon b }) →
        Micro.onRegs pix q.regs m = (q.regs.record ⟨.xfer f s, true⟩).advance →
        ∃ ms₁ m' ms₂ e q', m :: ms = ms₁ ++ m' :: ms₂ ∧ m'.entries pix = [e] ∧ e.act.isXfer = true ∧
          q.env.okFor (entriesOf pix ms₁) ∧ q.env.xfer.answer (xferCount (entriesOf pix ms₁)) = false ∧
          runMicros sink b (m :: ms) fin q = .done .busTransferFailure q' ∧
          q'.regs = ((ms₁.foldl (Micro.onRegs pix) q.regs).record { e with ok := false }).abandon b := by
      intro f s he hrun hreg
      cases h0 : q.env.xfer.head
      · rw [perform_xfer_err sink f s q h0] at hrun
        exact ⟨[], m, ms, _, _, rfl, he, rfl, Env.okFor_none rfl, by simpa [Draw.answer_zero] using h0, hrun, rfl⟩
      · rw [perform_xfer_ok sink f s q h0] at hrun
        refine later _ hreg.symm hrun (by simpa using hpix') (fun es => ?_) (fun es => ?_)
        · rw [he]
          constructor
          · intro h j hj
            cases j with
            | zero => rwa [Draw.answer_zero]
            | succ j =>
              rw [← Draw.answer_tail]
              exact h j (by simp [xferCount_cons, Act.isXfer] at hj; omega)
          · intro h j hj
            have h1 := h (j + 1) (by simp [xferCount_cons, Act.isXfer]; omega)
            rwa [← Draw.answer_tail] at h1
        · rw [he]
          simp [xferCount_cons, Act.isXfer, Draw.answer_tail]
    cases m with
    | set w =>
      refine later { q with regs := q.regs.write w } rfl rfl (fun h => ?_) (by simp [Micro.entries, Env.okFor])
        (by simp [Micro.entries])
      have h0 := hpix' h
      have h1 := hw _ (List.mem_cons_self ..)
      cases w <;> first | exact h0 | simp [Micro.within] at h1
    | act a =>
      by_cases ha : a.isXfer
      · cases a with
        | xfer f s => exact transfer f s rfl rfl rfl
        | _ => simp [Act.isXfer] at ha
      · have ha' : a.isXfer = false := by simpa using ha
        refine later _ rfl (by rw [runMicros, perform_other sink a q ha']) (by simpa [Micro.onRegs] using hpix') ?_ ?_
        · simp [Micro.entries, Env.okFor, xferCount_cons, ha']
        · simp [Micro.entries, xferCount_cons, ha']
    | send a n =>
      refine transfer .data ((pix.drop a).take n) rfl ?_ rfl
      rw [runMicros, hpix ⟨a, n, List.mem_cons_self ..⟩, memRead_some (hw _ (List.mem_cons_self ..))] <;> rfl

/-- The start-line byte of init is the bare opcode, since `K.START_LINE` is 0 (R59). -/
@[simp] theorem startlineByte_startLine (op : MonoOps) : startlineByte op startLine = op.startline := by
  simp [startlineByte, startLine]

end Sys2Proof.Machine
end

