-- ==== Sys2Proof/Laws/Exec.lean ====
section
/-!
SUPPORT. The shape of every instruction: it reports capabilities, or it runs one plan on its unit's instance after
asking some handles for their readiness.
-/

namespace Sys2Proof.Machine

/-- The MONO instance's handles asked, in order. -/
def State.askMono (hs : List Handle) (s : State) : State :=
  { s with mono := { s.mono with env := askAll hs s.mono.env } }

/-- The COLOR instance's handles asked, in order. -/
def State.askColor (hs : List Handle) (s : State) : State :=
  { s with color := { s.color with env := askAll hs s.color.env } }

/-- COLOR set_brightness runs one plan without transfers, in or outside Ready. -/
theorem execColorSetBrightness_shape (b : Byte) (s : State) :
    ∃ p hs, execColorSetBrightness b s = runColor false p (s.askColor hs) := by
  unfold execColorSetBrightness
  split
  · exact ⟨_, _, rfl⟩
  · exact ⟨_, [], rfl⟩

/-- Every instruction reports capabilities, or runs one plan on its unit's instance; only an init runs as one. -/
theorem exec_shape (i : Instr) (s : State) :
    (∃ c, exec i s = .next { s with answer := some (.capabilities c) }) ∨
    (unitOf i = .mono ∧ ∃ b p hs, exec i s = runMono b p (s.askMono hs) ∧ (b = true ↔ i = .monoInit)) ∨
    (unitOf i = .color ∧ ∃ b p hs, exec i s = runColor b p (s.askColor hs) ∧ (b = true ↔ i = .colorInit)) := by
  cases i
  case monoInit => exact .inr (.inl ⟨rfl, true, _, _, rfl, by simp⟩)
  case colorInit => exact .inr (.inr ⟨rfl, true, _, _, rfl, by simp⟩)
  case monoGetCapabilities => exact .inl ⟨_, rfl⟩
  case colorGetCapabilities => exact .inl ⟨_, rfl⟩
  case colorSetBrightness b =>
    obtain ⟨p, hs, h⟩ := execColorSetBrightness_shape b s
    exact .inr (.inr ⟨rfl, false, p, hs, h, by simp⟩)
  case monoSetBrightness b => exact .inr (.inl ⟨rfl, false, .raise .unsupportedOperation, [], rfl, by simp⟩)
  case monoFill c => exact .inr (.inl ⟨rfl, false, .raise .unsupportedOperation, [], rfl, by simp⟩)
  case colorSetContrast v => exact .inr (.inr ⟨rfl, false, .raise .unsupportedOperation, [], rfl, by simp⟩)
  all_goals first
    | exact .inr (.inl ⟨rfl, false, _, [], rfl, by simp⟩)
    | exact .inr (.inr ⟨rfl, false, _, [], rfl, by simp⟩)

end Sys2Proof.Machine
end

