-- ==== Sys2Proof/Laws/PerInstr.lean ====
section
/-!
SUPPORT. The per-instruction family `RowMatch`: the first byte an instruction is spelled by meets the match and mask
its row of spec/opcode_table.json gives, for every value of its fields.
-/

namespace Sys2Proof.Laws.RowMatch

/-- The match and mask of an instruction's row, as spec/opcode_table.json lists them; none for the three rows
that have none (MONO SOFT_RESET and the two DATA rows). -/
def row : Instr → Option (Byte × Byte)
  | .monoInit => some (0x01, 0xFF)
  | .colorInit => some (0x01, 0xFF)
  | .monoWrite _ _ _ _ => some (0x02, 0xFF)
  | .colorWrite _ _ _ _ => some (0x02, 0xFF)
  | .monoSetContrast _ => some (0x03, 0xFF)
  | .colorSetContrast _ => some (0x03, 0xFF)
  | .monoSetPixelFormat _ => some (0x04, 0xFF)
  | .colorSetPixelFormat _ => some (0x04, 0xFF)
  | .monoGetCapabilities => some (0x05, 0xFF)
  | .colorGetCapabilities => some (0x05, 0xFF)
  | .monoBlankingOn => some (0x06, 0xFF)
  | .colorBlankingOn => some (0x06, 0xFF)
  | .monoBlankingOff => some (0x07, 0xFF)
  | .colorBlankingOff => some (0x07, 0xFF)
  | .monoSetBrightness _ => some (0x08, 0xFF)
  | .colorSetBrightness _ => some (0x08, 0xFF)
  | .monoSetOrientation _ => some (0x09, 0xFF)
  | .colorSetOrientation _ => some (0x09, 0xFF)
  | .monoSuspend => some (0x0A, 0xFF)
  | .colorSuspend => some (0x0A, 0xFF)
  | .monoResume => some (0x0B, 0xFF)
  | .colorResume => some (0x0B, 0xFF)
  | .monoFill _ => some (0x0C, 0xFF)
  | .colorFill _ => some (0x0C, 0xFF)
  | .monoLowcol _ => some (0x00, 0xF0)
  | .monoHighcol _ => some (0x10, 0xF0)
  | .monoMemmode _ => some (0x20, 0xFF)
  | .monoColaddr _ _ => some (0x21, 0xFF)
  | .monoPageaddr _ _ => some (0x22, 0xFF)
  | .monoStartline _ => some (0x40, 0xC0)
  | .monoContrast _ => some (0x81, 0xFF)
  | .monoChargepump _ => some (0x8D, 0xFF)
  | .monoSegremap _ => some (0xA0, 0xFE)
  | .monoNormal => some (0xA6, 0xFF)
  | .monoInverse => some (0xA7, 0xFF)
  | .monoMux _ => some (0xA8, 0xFF)
  | .monoDcdc _ => some (0xAD, 0xFF)
  | .monoIref _ => some (0xAD, 0xFF)
  | .monoDispoff => some (0xAE, 0xFF)
  | .monoDispon => some (0xAF, 0xFF)
  | .monoPagestart _ => some (0xB0, 0xF8)
  | .monoComscan _ => some (0xC0, 0xF7)
  | .monoDispoffset _ => some (0xD3, 0xFF)
  | .monoClockdiv _ => some (0xD5, 0xFF)
  | .monoPrecharge _ => some (0xD9, 0xFF)
  | .monoCompins _ => some (0xDA, 0xFF)
  | .monoVcomh _ => some (0xDB, 0xFF)
  | .monoSoftReset => none
  | .monoData _ => none
  | .colorSwreset => some (0x01, 0xFF)
  | .colorSlpin => some (0x10, 0xFF)
  | .colorSlpout => some (0x11, 0xFF)
  | .colorInvoff => some (0x20, 0xFF)
  | .colorInvon => some (0x21, 0xFF)
  | .colorGamset _ => some (0x26, 0xFF)
  | .colorDispoff => some (0x28, 0xFF)
  | .colorDispon => some (0x29, 0xFF)
  | .colorCaset _ _ => some (0x2A, 0xFF)
  | .colorRaset _ _ => some (0x2B, 0xFF)
  | .colorRamwr => some (0x2C, 0xFF)
  | .colorMadctl _ => some (0x36, 0xFF)
  | .colorColmod _ => some (0x3A, 0xFF)
  | .colorRamctrl _ => some (0xB0, 0xFF)
  | .colorRgbctrl _ => some (0xB1, 0xFF)
  | .colorPorctrl _ => some (0xB2, 0xFF)
  | .colorGctrl _ => some (0xB7, 0xFF)
  | .colorDgmen _ => some (0xBA, 0xFF)
  | .colorVcoms _ => some (0xBB, 0xFF)
  | .colorLcmctrl _ => some (0xC0, 0xFF)
  | .colorVdvvrhen _ => some (0xC2, 0xFF)
  | .colorVrhs _ => some (0xC3, 0xFF)
  | .colorVdvs _ => some (0xC4, 0xFF)
  | .colorFrctrl2 _ => some (0xC6, 0xFF)
  | .colorPwctrl1 _ => some (0xD0, 0xFF)
  | .colorCmd2en _ => some (0xDF, 0xFF)
  | .colorPvgamctrl _ => some (0xE0, 0xFF)
  | .colorNvgamctrl _ => some (0xE1, 0xFF)
  | .colorData _ => none

/-- The first byte of an instruction's request meets its row's match under its row's mask. -/
def Statement (i : Instr) : Prop :=
  ∀ m k, row i = some (m, k) → ∃ b rest, (encode i).bytes = b :: rest ∧ b &&& k = m

/-- The shape every lemma of the family has: the first byte, and that it meets its row. -/
theorem of_first {i : Instr} {m k b : Byte} {rest : List Byte} (hr : row i = some (m, k))
    (hb : (encode i).bytes = b :: rest) (h : b &&& k = m) : Statement i := by
  intro m' k' h'
  rw [hr, Option.some.injEq, Prod.mk.injEq] at h'
  obtain ⟨rfl, rfl⟩ := h'
  exact ⟨b, rest, hb, h⟩

/-- The shape for a row without match and mask. -/
theorem of_none {i : Instr} (hr : row i = none) : Statement i := by
  intro m k h
  rw [hr] at h
  exact absurd h (by simp)

theorem monoInit : Statement .monoInit := of_first rfl rfl (by decide)
theorem colorInit : Statement .colorInit := of_first rfl rfl (by decide)
theorem monoWrite (x y : Half) (desc : BufferDescriptor) (pix : List Byte) :
    Statement (.monoWrite x y desc pix) := of_first rfl rfl (by decide)
theorem colorWrite (x y : Half) (desc : BufferDescriptor) (pix : List Byte) :
    Statement (.colorWrite x y desc pix) := of_first rfl rfl (by decide)
theorem monoSetContrast (v : Byte) : Statement (.monoSetContrast v) := of_first rfl rfl (by decide)
theorem colorSetContrast (v : Byte) : Statement (.colorSetContrast v) := of_first rfl rfl (by decide)
theorem monoSetPixelFormat (f : Format) : Statement (.monoSetPixelFormat f) := of_first rfl rfl (by decide)
theorem colorSetPixelFormat (f : Format) : Statement (.colorSetPixelFormat f) := of_first rfl rfl (by decide)
theorem monoGetCapabilities : Statement .monoGetCapabilities := of_first rfl rfl (by decide)
theorem colorGetCapabilities : Statement .colorGetCapabilities := of_first rfl rfl (by decide)
theorem monoBlankingOn : Statement .monoBlankingOn := of_first rfl rfl (by decide)
theorem colorBlankingOn : Statement .colorBlankingOn := of_first rfl rfl (by decide)
theorem monoBlankingOff : Statement .monoBlankingOff := of_first rfl rfl (by decide)
theorem colorBlankingOff : Statement .colorBlankingOff := of_first rfl rfl (by decide)
theorem monoSetBrightness (b : Byte) : Statement (.monoSetBrightness b) := of_first rfl rfl (by decide)
theorem colorSetBrightness (b : Byte) : Statement (.colorSetBrightness b) := of_first rfl rfl (by decide)
theorem monoSetOrientation (o : Orientation) : Statement (.monoSetOrientation o) := of_first rfl rfl (by decide)
theorem colorSetOrientation (o : Orientation) : Statement (.colorSetOrientation o) := of_first rfl rfl (by decide)
theorem monoSuspend : Statement .monoSuspend := of_first rfl rfl (by decide)
theorem colorSuspend : Statement .colorSuspend := of_first rfl rfl (by decide)
theorem monoResume : Statement .monoResume := of_first rfl rfl (by decide)
theorem colorResume : Statement .colorResume := of_first rfl rfl (by decide)
theorem monoFill (color : List Byte) : Statement (.monoFill color) := of_first rfl rfl (by decide)
theorem colorFill (color : List Byte) : Statement (.colorFill color) := of_first rfl rfl (by decide)
theorem monoLowcol (l : BitVec 4) : Statement (.monoLowcol l) := of_first rfl rfl (by revert l; decide)
theorem monoHighcol (h : BitVec 4) : Statement (.monoHighcol h) := of_first rfl rfl (by revert h; decide)
theorem monoMemmode (a : Byte) : Statement (.monoMemmode a) := of_first rfl rfl (by decide)
theorem monoColaddr (a b : Byte) : Statement (.monoColaddr a b) := of_first rfl rfl (by decide)
theorem monoPageaddr (a b : Byte) : Statement (.monoPageaddr a b) := of_first rfl rfl (by decide)
theorem monoStartline (line : BitVec 6) : Statement (.monoStartline line) := of_first rfl rfl (by revert line; decide)
theorem monoContrast (a : Byte) : Statement (.monoContrast a) := of_first rfl rfl (by decide)
theorem monoChargepump (a : Byte) : Statement (.monoChargepump a) := of_first rfl rfl (by decide)
theorem monoSegremap (r : Bool) : Statement (.monoSegremap r) := of_first rfl rfl (by revert r; decide)
theorem monoNormal : Statement .monoNormal := of_first rfl rfl (by decide)
theorem monoInverse : Statement .monoInverse := of_first rfl rfl (by decide)
theorem monoMux (a : Byte) : Statement (.monoMux a) := of_first rfl rfl (by decide)
theorem monoDcdc (a : Byte) : Statement (.monoDcdc a) := of_first rfl rfl (by decide)
theorem monoIref (a : Byte) : Statement (.monoIref a) := of_first rfl rfl (by decide)
theorem monoDispoff : Statement .monoDispoff := of_first rfl rfl (by decide)
theorem monoDispon : Statement .monoDispon := of_first rfl rfl (by decide)
theorem monoPagestart (p : BitVec 3) : Statement (.monoPagestart p) := of_first rfl rfl (by revert p; decide)
theorem monoComscan (f : Bool) : Statement (.monoComscan f) := of_first rfl rfl (by revert f; decide)
theorem monoDispoffset (a : Byte) : Statement (.monoDispoffset a) := of_first rfl rfl (by decide)
theorem monoClockdiv (a : Byte) : Statement (.monoClockdiv a) := of_first rfl rfl (by decide)
theorem monoPrecharge (a : Byte) : Statement (.monoPrecharge a) := of_first rfl rfl (by decide)
theorem monoCompins (a : Byte) : Statement (.monoCompins a) := of_first rfl rfl (by decide)
theorem monoVcomh (a : Byte) : Statement (.monoVcomh a) := of_first rfl rfl (by decide)
theorem monoSoftReset : Statement .monoSoftReset := of_none rfl
theorem monoData (pixels : List Byte) : Statement (.monoData pixels) := of_none rfl
theorem colorSwreset : Statement .colorSwreset := of_first rfl rfl (by decide)
theorem colorSlpin : Statement .colorSlpin := of_first rfl rfl (by decide)
theorem colorSlpout : Statement .colorSlpout := of_first rfl rfl (by decide)
theorem colorInvoff : Statement .colorInvoff := of_first rfl rfl (by decide)
theorem colorInvon : Statement .colorInvon := of_first rfl rfl (by decide)
theorem colorGamset (a : Byte) : Statement (.colorGamset a) := of_first rfl rfl (by decide)
theorem colorDispoff : Statement .colorDispoff := of_first rfl rfl (by decide)
theorem colorDispon : Statement .colorDispon := of_first rfl rfl (by decide)
theorem colorCaset (xs xe : Half) : Statement (.colorCaset xs xe) := of_first rfl rfl (by decide)
theorem colorRaset (ys ye : Half) : Statement (.colorRaset ys ye) := of_first rfl rfl (by decide)
theorem colorRamwr : Statement .colorRamwr := of_first rfl rfl (by decide)
theorem colorMadctl (a : Byte) : Statement (.colorMadctl a) := of_first rfl rfl (by decide)
theorem colorColmod (a : Byte) : Statement (.colorColmod a) := of_first rfl rfl (by decide)
theorem colorRamctrl (params : List Byte) : Statement (.colorRamctrl params) := of_first rfl rfl (by decide)
theorem colorRgbctrl (params : List Byte) : Statement (.colorRgbctrl params) := of_first rfl rfl (by decide)
theorem colorPorctrl (params : List Byte) : Statement (.colorPorctrl params) := of_first rfl rfl (by decide)
theorem colorGctrl (a : Byte) : Statement (.colorGctrl a) := of_first rfl rfl (by decide)
theorem colorDgmen (a : Byte) : Statement (.colorDgmen a) := of_first rfl rfl (by decide)
theorem colorVcoms (a : Byte) : Statement (.colorVcoms a) := of_first rfl rfl (by decide)
theorem colorLcmctrl (a : Byte) : Statement (.colorLcmctrl a) := of_first rfl rfl (by decide)
theorem colorVdvvrhen (a : Byte) : Statement (.colorVdvvrhen a) := of_first rfl rfl (by decide)
theorem colorVrhs (a : Byte) : Statement (.colorVrhs a) := of_first rfl rfl (by decide)
theorem colorVdvs (a : Byte) : Statement (.colorVdvs a) := of_first rfl rfl (by decide)
theorem colorFrctrl2 (a : Byte) : Statement (.colorFrctrl2 a) := of_first rfl rfl (by decide)
theorem colorPwctrl1 (params : List Byte) : Statement (.colorPwctrl1 params) := of_first rfl rfl (by decide)
theorem colorCmd2en (params : List Byte) : Statement (.colorCmd2en params) := of_first rfl rfl (by decide)
theorem colorPvgamctrl (params : List Byte) : Statement (.colorPvgamctrl params) := of_first rfl rfl (by decide)
theorem colorNvgamctrl (params : List Byte) : Statement (.colorNvgamctrl params) := of_first rfl rfl (by decide)
theorem colorData (pixels : List Byte) : Statement (.colorData pixels) := of_none rfl

end Sys2Proof.Laws.RowMatch
end

