-- ==== Sys2Proof/Tests/Slice0.lean ====
section
/-!
SUPPORT. The author's own tests: ill-formed terms refused, every constructor's decoding from bytes written out from the
spec's encodings, vectors of 95_test_vectors.md (named after their ids there), and for each statement with hypotheses a
concrete state that meets them.
-/

namespace Sys2Proof.Tests

open Sys2Proof.Machine

/-! ## Well-formedness: an ill-formed term for each check -/

theorem test_wellFormed_refuses_empty_mono_payload : Instr.wellFormed .ssd1306 (.monoData []) = false := by decide
theorem test_wellFormed_refuses_empty_color_payload : Instr.wellFormed .ssd1306 (.colorData []) = false := by decide
theorem test_wellFormed_refuses_dcdc_off_sh1106 :
    Instr.wellFormed .ssd1306 (.monoDcdc 0x8B) = false ∧ Instr.wellFormed .ssd1309 (.monoDcdc 0x8B) = false := by decide
theorem test_wellFormed_refuses_iref_on_sh1106 : Instr.wellFormed .sh1106 (.monoIref 0x30) = false := by decide

/-! ## Decoding, from bytes written out from the spec

Host op codes: R152, operand codes R153. Wire bytes: the "Bytes" of rules R260 to R284 and R350 to R378. -/

/-- Whether every pair's bytes, on a port, decode to its instruction. -/
def decodesTo (chip : Chip) (port : Port) (l : List (List Byte × Instr)) : Bool :=
  l.all fun p => decide (decode chip ⟨port, p.1⟩ = .ok p.2)

theorem test_decode_mono_host : decodesTo .ssd1306 (.host .mono)
    [([0x01], .monoInit),
     ([0x02, 0x00, 0x08, 0x00, 0x10, 0x00, 0x80, 0x00, 0x08, 0x01, 0x00, 0x00, 0x01, 0x02, 0x03, 0xAA, 0xBB],
       .monoWrite 8 16 { width := 128, height := 8, pitch := 256, bufSize := 0x00010203 } [0xAA, 0xBB]),
     ([0x03, 0x7F], .monoSetContrast 0x7F), ([0x04, 0x01], .monoSetPixelFormat .monoInverted),
     ([0x05], .monoGetCapabilities), ([0x06], .monoBlankingOn), ([0x07], .monoBlankingOff),
     ([0x08, 0x0A], .monoSetBrightness 10), ([0x09, 0x02], .monoSetOrientation .rotated180), ([0x0A], .monoSuspend),
     ([0x0B], .monoResume), ([0x0C, 0xFF], .monoFill [0xFF])] = true := by decide

theorem test_decode_color_host : decodesTo .ssd1306 (.host .color)
    [([0x01], .colorInit),
     ([0x02, 0x00, 0x0A, 0x00, 0x14, 0x00, 0x32, 0x00, 0x1E, 0x00, 0x32, 0x00, 0x00, 0x0B, 0xB8, 0x01],
       .colorWrite 10 20 { width := 50, height := 30, pitch := 50, bufSize := 3000 } [0x01]),
     ([0x03, 0x01], .colorSetContrast 1), ([0x04, 0x02], .colorSetPixelFormat .rgb565),
     ([0x05], .colorGetCapabilities), ([0x06], .colorBlankingOn), ([0x07], .colorBlankingOff),
     ([0x08, 0x80], .colorSetBrightness 128), ([0x09, 0x03], .colorSetOrientation .rotated270), ([0x0A], .colorSuspend),
     ([0x0B], .colorResume), ([0x0C, 0xF8, 0x00], .colorFill [0xF8, 0x00])] = true := by decide

theorem test_decode_mono_wire : decodesTo .ssd1309 (.cmd .mono)
    [([0x0A], .monoLowcol 10), ([0x17], .monoHighcol 7), ([0x20, 0x00], .monoMemmode 0x00),
     ([0x21, 0x0C, 0x1B], .monoColaddr 0x0C 0x1B), ([0x22, 0x01, 0x02], .monoPageaddr 1 2),
     ([0x7F], .monoStartline 63), ([0x81, 0x7F], .monoContrast 0x7F), ([0x8D, 0x14], .monoChargepump 0x14),
     ([0xA0], .monoSegremap false), ([0xA1], .monoSegremap true), ([0xA6], .monoNormal), ([0xA7], .monoInverse),
     ([0xA8, 0x3F], .monoMux 0x3F), ([0xAD, 0x30], .monoIref 0x30), ([0xAE], .monoDispoff), ([0xAF], .monoDispon),
     ([0xB7], .monoPagestart 7), ([0xC0], .monoComscan false), ([0xC8], .monoComscan true),
     ([0xD3, 0x01], .monoDispoffset 1), ([0xD5, 0x80], .monoClockdiv 0x80), ([0xD9, 0x22], .monoPrecharge 0x22),
     ([0xDA, 0x12], .monoCompins 0x12), ([0xDB, 0x20], .monoVcomh 0x20)] = true := by decide

theorem test_decode_mono_other_ports :
    decode .sh1106 ⟨.cmd .mono, [0xAD, 0x8B]⟩ = .ok (.monoDcdc 0x8B) ∧
    decode .sh1106 ⟨.param, []⟩ = .ok .monoSoftReset ∧
    decode .sh1106 ⟨.data .mono, [0x55, 0xAA]⟩ = .ok (.monoData [0x55, 0xAA]) := by decide

theorem test_decode_color_wire : decodesTo .ssd1306 (.cmd .color)
    [([0x01], .colorSwreset), ([0x10], .colorSlpin), ([0x11], .colorSlpout), ([0x20], .colorInvoff),
     ([0x21], .colorInvon), ([0x26, 0x01], .colorGamset 1), ([0x28], .colorDispoff), ([0x29], .colorDispon),
     ([0x2A, 0x00, 0x0A, 0x01, 0x3B], .colorCaset 10 315), ([0x2B, 0x00, 0x14, 0x00, 0x31], .colorRaset 20 49),
     ([0x2C], .colorRamwr), ([0x36, 0xA0], .colorMadctl 0xA0), ([0x3A, 0x55], .colorColmod 0x55),
     ([0xB0, 0x00, 0xF0], .colorRamctrl [0x00, 0xF0]), ([0xB1, 0xCD, 0x08, 0x14], .colorRgbctrl [0xCD, 0x08, 0x14]),
     ([0xB2, 0x0C], .colorPorctrl [0x0C]), ([0xB7, 0x35], .colorGctrl 0x35)] = true := by decide

theorem test_decode_color_wire_more : decodesTo .ssd1306 (.cmd .color)
    [([0xBA, 0x00], .colorDgmen 0), ([0xBB, 0x19], .colorVcoms 0x19), ([0xC0, 0x2C], .colorLcmctrl 0x2C),
     ([0xC2, 0x01], .colorVdvvrhen 1), ([0xC3, 0x12], .colorVrhs 0x12), ([0xC4, 0x20], .colorVdvs 0x20),
     ([0xC6, 0x0F], .colorFrctrl2 0x0F), ([0xD0, 0xA4, 0xA1], .colorPwctrl1 [0xA4, 0xA1]),
     ([0xDF, 0x5A], .colorCmd2en [0x5A]), ([0xE0, 0xD0], .colorPvgamctrl [0xD0]),
     ([0xE1], .colorNvgamctrl [])] = true ∧
    decode .ssd1306 ⟨.data .color, [0xF8, 0x00]⟩ = .ok (.colorData [0xF8, 0x00]) := by decide

/-- Lengths and codes the decoder refuses (R153, R154, R157, R167). -/
theorem test_decode_refuses :
    decode .ssd1306 ⟨.host .mono, []⟩ = .error .badLength ∧
    decode .ssd1306 ⟨.host .mono, [0x03]⟩ = .error .badLength ∧
    decode .ssd1306 ⟨.host .color, [0x05, 0x00]⟩ = .error .badLength ∧
    decode .ssd1306 ⟨.cmd .mono, [0x21, 0x00]⟩ = .error .badLength ∧
    decode .ssd1306 ⟨.cmd .mono, [0xA6, 0xA7]⟩ = .error .badLength ∧
    decode .ssd1306 ⟨.cmd .mono, [0xE3]⟩ = .error (.undefinedCommand 0xE3) ∧
    decode .ssd1306 ⟨.cmd .color, [0x02]⟩ = .error (.undefinedCommand 0x02) := by decide

theorem test_decodeTableWord :
    decodeTableWord 8 0x01 = some .monoInit ∧ decodeTableWord 8 0x21 = some (.monoColaddr 0 0) ∧
    decodeTableWord 8 0x2A = some (.colorCaset 0 0) ∧ decodeTableWord 8 0xB0 = some (.monoPagestart 0) := by decide

/-! ## Boards and states of 95_test_vectors.md -/

/-- MH of 95_test_vectors.md. -/
def monoMH : MonoCfg := { monoM6 with chip := .sh1106, segmentOffset := 2, supplyGpio := some ⟨true⟩, tPowerSettle := 100 }

/-- M9 of 95_test_vectors.md. -/
def monoM9 : MonoCfg := { monoM6 with chip := .ssd1309, internalIref := true, resetGpio := true }

/-- A board as 95_test_vectors.md builds it, in one phase on both units, whose transports answer as `script` says and
then Ok. -/
def board (m : MonoCfg) (c : ColorCfg) (k : Consts) (ph : Phase) (script : List Bool) : State :=
  let s := State.ofBoard { defaultBoard with mono := m, color := c, k := k }
  { s with
    mono := { s.mono with
      regs := { s.mono.regs with phase := ph, indeterminate := ph != .ready },
      env := { s.mono.env with xfer := { script := script, rest := true } } },
    color := { s.color with
      regs := { s.color.regs with phase := ph, indeterminate := ph != .ready },
      env := { s.color.env with xfer := { script := script, rest := true } } } }

/-- A MONO board in Ready. -/
def onMono (m : MonoCfg) (script : List Bool := []) : State := board m colorC2 constsK .ready script

/-- A COLOR board in Ready. -/
def onColor (c : ColorCfg) (script : List Bool := []) : State := board monoM6 c constsK .ready script

/-- What an instruction leaves in the MONO trace, and its answer. -/
def monoRun (i : Instr) (s : State) : Option (List Entry × Option Answer) :=
  match exec i s with
  | .next t => some (t.mono.regs.trace, t.answer)
  | .fault _ => none
  | .refused _ => none

/-- What an instruction leaves in the COLOR trace, and its answer. -/
def colorRun (i : Instr) (s : State) : Option (List Entry × Option Answer) :=
  match exec i s with
  | .next t => some (t.color.regs.trace, t.answer)
  | .fault _ => none
  | .refused _ => none

/-- The answer of an instruction. -/
def answerOf (i : Instr) (s : State) : Option Answer :=
  match exec i s with
  | .next t => t.answer
  | .fault _ => none
  | .refused _ => none

/-- One register of the MONO instance after an instruction. -/
def monoReg {α : Type} (f : Regs → α) (i : Instr) (s : State) : Option α :=
  match exec i s with
  | .next t => some (f t.mono.regs)
  | .fault _ => none
  | .refused _ => none

/-- One register of the COLOR instance after an instruction. -/
def colorReg {α : Type} (f : Regs → α) (i : Instr) (s : State) : Option α :=
  match exec i s with
  | .next t => some (f t.color.regs)
  | .fault _ => none
  | .refused _ => none

def okA : Option Answer := some (.result .ok)
def geometryA : Option Answer := some (.result .geometryViolation)
def notReadyA : Option Answer := some (.result .deviceNotReady)
def busFailedA : Option Answer := some (.result .busTransferFailure)
def unsupportedA : Option Answer := some (.result .unsupportedOperation)

/-- The buffer 0, 1, 2, … of `n` bytes. -/
def buf (n : Nat) : List Byte := (List.range n).map fun j => BitVec.ofNat 8 j

/-- A descriptor. -/
def desc (w h p b : Nat) : BufferDescriptor :=
  { width := BitVec.ofNat 16 w, height := BitVec.ofNat 16 h, pitch := BitVec.ofNat 16 p, bufSize := BitVec.ofNat 32 b }

/-! ## Vectors of 95_test_vectors.md: MONO -/

theorem test_M4_page_range_rounds_down : monoRun (.monoWrite 0 0 (desc 16 12 16 100) (buf 100)) (onMono monoM6) =
    some ([cmdE [0x20, 0x00, 0x21, 0x00, 0x0F, 0x22, 0x00, 0x00], datE (buf 24)], okA) := by decide
theorem test_M5_page_end_wraps : monoRun (.monoWrite 0 0 (desc 8 4 8 4) (buf 4)) (onMono monoM6) =
    some ([cmdE [0x20, 0x00, 0x21, 0x00, 0x07, 0x22, 0x00, 0xFF], datE (buf 4)], okA) := by decide
theorem test_M6_to_M13_rejected : ∀ i ∈ [Instr.monoWrite 0 0 (desc 1 7 1 10) (buf 10),
    .monoWrite 0 0 (desc 8 8 8 0) [], .monoWrite 3 0 (desc 8 8 8 8) (buf 8), .monoWrite 0 4 (desc 8 8 8 8) (buf 8),
    .monoWrite 64 0 (desc 72 8 72 72) (buf 72), .monoWrite 0 56 (desc 8 16 8 16) (buf 16),
    .monoWrite 0 0 (desc 128 8 100 128) (buf 128), .monoWrite 0 0 (desc 0 8 0 8) (buf 8)],
    monoRun i (onMono monoM6) = some ([], geometryA) := by decide
theorem test_M18_high_column : monoRun (.monoWrite 120 0 (desc 8 8 8 8) (buf 8)) (onMono monoMH) =
    some ([cmdE [0x0A, 0x17, 0xB0], datE (buf 8)], okA) := by decide
theorem test_L1_1_on_eight_columns : monoRun (.monoWrite 0 8 (desc 8 16 8 16) (buf 16)) (onMono monoMH) =
    some ([cmdE [0x02, 0x10, 0xB1], datE (buf 8), cmdE [0x02, 0x10, 0xB2], datE ((buf 16).drop 8)], okA) := by decide
theorem test_M19_guard_on_eight_columns : monoRun (.monoWrite 0 0 (desc 8 24 8 20) (buf 20)) (onMono monoMH) =
    some ([cmdE [0x02, 0x10, 0xB0], datE (buf 8), cmdE [0x02, 0x10, 0xB1], datE ((buf 16).drop 8)], geometryA) := by
  decide
theorem test_M21_no_whole_page : monoRun (.monoWrite 0 0 (desc 16 4 16 8) (buf 8)) (onMono monoMH) =
    some ([], okA) := by decide
theorem test_M23_second_page_fails :
    monoRun (.monoWrite 0 8 (desc 8 16 8 16) (buf 16)) (onMono monoMH [true, true, true, false]) =
      some ([cmdE [0x02, 0x10, 0xB1], datE (buf 8), cmdE [0x02, 0x10, 0xB2], ⟨.xfer .data ((buf 16).drop 8), false⟩],
        busFailedA) := by decide
theorem test_M24_contrast : monoRun (.monoSetContrast 0x7F) (onMono monoM6) = some ([cmdE [0x81, 0x7F]], okA) := by
  decide
theorem test_M26_inverts : monoRun (.monoSetPixelFormat .monoInverted) (onMono monoM6) = some ([cmdE [0xA7]], okA) ∧
    monoReg Regs.pf (.monoSetPixelFormat .monoInverted) (onMono monoM6) = some .monoInverted := by decide
theorem test_M27_format_kept_on_failure :
    monoReg Regs.pf (.monoSetPixelFormat .monoInverted) (onMono monoM6 [false]) = some .monoNormal ∧
    answerOf (.monoSetPixelFormat .rgb565) (onMono monoM6) = unsupportedA := by decide
theorem test_M29_capabilities : answerOf .monoGetCapabilities (board monoM6 colorC2 constsK .uninit []) =
    some (.capabilities {
      width := 128, height := 64, supportedFormats := [.monoNormal, .monoInverted], currentFormat := .monoNormal, orientation := .normal }) := by decide
theorem test_M30_suspend : monoRun .monoSuspend (onMono monoMH) =
    some ([cmdE [0xAE], gpioE .supply .deasserted], okA) := by decide
theorem test_M31_resume : monoRun .monoResume (onMono monoMH) =
    some ([gpioE .supply .asserted, delayE 100, cmdE [0xAF]], okA) := by decide
theorem test_M32_M33_blanking : monoRun .monoBlankingOn (onMono monoM6) = some ([cmdE [0xAE]], okA) ∧
    monoRun .monoBlankingOff (onMono monoM6) = some ([cmdE [0xAF]], okA) := by decide
theorem test_M34_supply_untouched_on_failure :
    monoReg Regs.supplyLine .monoSuspend (onMono monoMH [false]) = some none := by decide
theorem test_M35_M36_orientation : answerOf (.monoSetOrientation .normal) (onMono monoM6) = okA ∧
    answerOf (.monoSetOrientation .rotated270) (onMono monoM6) = unsupportedA := by decide
theorem test_M37_M38_rejected : answerOf (.monoSetBrightness 10) (board monoM6 colorC2 constsK .failed []) = unsupportedA ∧
    answerOf (.monoFill [0xFF]) (board monoM6 colorC2 constsK .uninit []) = unsupportedA := by decide

theorem test_MI1_init : monoRun .monoInit State.reset =
    some ([delayE 0, cmdE [0xA1, 0xC8], cmdE [0xD5, 0x80, 0xD9, 0x22, 0xDB, 0x20],
      cmdE [0x40, 0xD3, 0x00, 0xDA, 0x12, 0xA8, 0x3F], cmdE [0x8D, 0x14], cmdE [0xA6], cmdE [0x81, 0x80], cmdE [0xAF]],
      okA) := by decide
theorem test_MI3_init_ssd1309 : monoRun .monoInit (onMono monoM9) =
    some ([gpioE .reset .asserted, delayE 0, gpioE .reset .deasserted, delayE 0, cmdE [0xA1, 0xC8],
      cmdE [0xD5, 0x80, 0xD9, 0x22, 0xDB, 0x34], cmdE [0x40, 0xD3, 0x00, 0xDA, 0x12, 0xA8, 0x3F], cmdE [0x8D, 0x14],
      cmdE [0xAD, 0x30], cmdE [0xA6], cmdE [0x81, 0x80], cmdE [0xAF]], okA) := by decide
theorem test_MI6_third_transfer_fails :
    monoReg (fun q => (q.phase, q.indeterminate, q.dispOn, q.trace.length)) .monoInit (onMono monoM6 [true, true, false]) =
      some (.failed, true, none, 4) := by decide

/-! ## Vectors of 95_test_vectors.md: COLOR, backlight, fill -/

theorem test_C2_strided : colorRun (.colorWrite 0 0 (desc 2 3 5 24) (buf 24)) (onColor colorC2) =
    some ([cmdE [0x2A], datE [0x00, 0x00, 0x00, 0x01], cmdE [0x2B], datE [0x00, 0x00, 0x00, 0x02], cmdE [0x2C],
      datE (buf 4), datE [10, 11, 12, 13], datE [20, 21, 22, 23]], okA) := by decide
theorem test_C4_end_bound_wraps : colorRun (.colorWrite 0xFFFF 0 (desc 2 1 2 4) (buf 4)) (onColor colorC2) =
    some ([cmdE [0x2A], datE [0xFF, 0xFF, 0x00, 0x00], cmdE [0x2B], datE [0x00, 0x00, 0x00, 0x00], cmdE [0x2C],
      datE (buf 4)], okA) := by decide
theorem test_C6_short_buffer_faults :
    exec (.colorWrite 0 0 (desc 10 10 10 199) []) (onColor colorC2) = .fault .hostBufferOverrun := by rfl
theorem test_C7_C8_rejected : answerOf (.colorWrite 0 0 (desc 10 10 8 0) []) (onColor colorC2) = geometryA ∧
    answerOf (.colorWrite 0 0 (desc 10 0 10 0) []) (onColor colorC2) = geometryA := by decide
theorem test_C11_no_parameters_after_failure :
    colorRun (.colorWrite 10 20 (desc 1 1 1 2) (buf 2)) (onColor colorC2 [false]) =
      some ([⟨.xfer .cmd [0x2A], false⟩], busFailedA) := by decide
theorem test_C12_blanking : colorRun .colorBlankingOn (onColor colorC2) = some ([cmdE [0x28]], okA) ∧
    colorRun .colorBlankingOff (onColor colorC2) = some ([cmdE [0x29]], okA) := by decide
theorem test_C13_format : answerOf (.colorSetPixelFormat .rgb565) (onColor colorC2) = okA ∧
    answerOf (.colorSetPixelFormat .rgb888) (onColor colorC2) = unsupportedA := by decide
theorem test_C14_orientation : answerOf (.colorSetOrientation .normal) (onColor colorC2) = okA ∧
    answerOf (.colorSetOrientation .rotated90) (onColor colorC2) = unsupportedA := by decide
theorem test_C15_C16_sleep : colorRun .colorSuspend (onColor colorC2) = some ([cmdE [0x10]], okA) ∧
    colorRun .colorResume (onColor colorC2) = some ([cmdE [0x11], delayE 0], okA) := by decide
theorem test_C17_C18_any_phase : answerOf .colorGetCapabilities (board monoM6 colorC2 constsK .failed []) =
      some (.capabilities {
        width := 240, height := 240, supportedFormats := [.rgb565], currentFormat := .rgb565, orientation := .normal }) ∧
    answerOf (.colorSetContrast 1) (board monoM6 colorC2 constsK .uninit []) = unsupportedA := by decide

theorem test_CI1_init_commands :
    (colorRun .colorInit (onColor colorC2)).map (fun r => (xferCount r.1, r.2)) = some (40, okA) ∧
    (colorRun .colorInit (onColor colorC2)).map (fun r => r.1.filterMap fun e =>
      match e.act with
      | .xfer .cmd s => some s
      | _ => none) =
      some ([0x28, 0xDF, 0xB2, 0xBA, 0xC6, 0xB7, 0xBB, 0xC2, 0xC3, 0xC4, 0xD0, 0x36, 0x3A, 0xC0, 0x26, 0x21, 0xE0, 0xE1,
        0xB0, 0xB1, 0x11, 0x29].map fun op : Byte => [op]) := by decide
theorem test_CI6_sleep_out_fails :
    colorReg (fun q => (q.phase, q.asleep, q.dispOn)) .colorInit
      (onColor colorC2 (List.replicate 38 true ++ [false])) = some (.failed, none, some false) := by decide

theorem test_B1_duty : colorRun (.colorSetBrightness 128) (onColor colorC2) = some ([pwmE 1000 501], okA) := by decide
theorem test_B4_gpio :
    colorRun (.colorSetBrightness 1) (onColor { colorC2 with blPwm := none, blGpio := some ⟨true⟩ }) =
      some ([gpioE .backlight .asserted], okA) ∧
    colorRun (.colorSetBrightness 0) (onColor { colorC2 with blPwm := none, blGpio := some ⟨true⟩ }) =
      some ([gpioE .backlight .deasserted], okA) := by decide

/-- A small COLOR panel: 2 by 5 pixels, chunks of 2 rows. -/
def smallColor : ColorCfg := { colorC2 with width := 2, height := 5 }
def smallConsts : Consts := { constsK with fillChunkRows := 2, fillBufBytes := 8 }

/-- The shape of F-1 on a small panel: two full chunks and a clipped one. -/
theorem test_F1_fill_clips_the_last_chunk :
    (colorRun (.colorFill [0xF8, 0x00]) (board monoM6 smallColor smallConsts .ready [])).map
      (fun r => (xferCount r.1, r.1.drop 14, r.2)) =
      some (18, [cmdE [0x2B], datE [0x00, 0x04, 0x00, 0x04], cmdE [0x2C], datE [0xF8, 0x00, 0xF8, 0x00]], okA) := by decide
theorem test_F4_F6_fill_rejected : answerOf (.colorFill [0xF8]) (onColor colorC2) = geometryA ∧
    answerOf (.colorFill [0xF8, 0x00]) (board monoM6 colorC2 constsK .uninit []) = notReadyA := by decide

/-! ## Wire rows, construction, the sinks -/

theorem test_wire_rows :
    monoRun (.monoPagestart 2) (onMono monoM6) = some ([cmdE [0xB2]], okA) ∧
    monoRun .monoSoftReset (onMono monoM6) = some ([], okA) ∧
    colorRun (.colorCaset 10 59) (onColor colorC2) = some ([cmdE [0x2A], datE [0x00, 0x0A, 0x00, 0x3B]], okA) ∧
    colorReg Regs.asleep .colorSlpin (onColor colorC2) = some (some true) := by decide

theorem test_chip_flags : chipOfFlags true true = none ∧ chipOfFlags true false = some .sh1106 ∧
    chipOfFlags false true = some .ssd1309 ∧ chipOfFlags false false = some .ssd1306 := by decide

/-- What the MONO panel's store holds at an address after an instruction, from a state. -/
def monoCellAfter (i : Instr) (s : State) (a : Nat) : Option Byte :=
  match exec i s with
  | .next t => Memory.read t.mono.panel.cells a
  | .fault _ => none
  | .refused _ => none

/-- R126 with the column range's ends out of order, and a page end of 9: the bytes are stored at the pointer. -/
theorem test_window_out_of_order_stores :
    let s := onMono monoM6
    let r := { s with mono := { s.mono with panel :=
      { s.mono.panel with cs := 7, ce := 5, col := 7, ps := 2, pe := 9, page := 2 } } }
    monoCellAfter (.monoData [0xA1, 0xA2]) r (monoCell 2 8) = some 0xA2 := by decide

/-- A board whose MONO panel has a window of four columns and two pages, its pointer at the start. -/
def fourByTwo : State :=
  let s := onMono monoM6
  { s with mono := { s.mono with panel := { s.mono.panel with cs := 4, ce := 7, col := 4, ps := 0, pe := 1 } } }

/-- What the MONO panel's store holds at an address after two payloads. -/
def monoCellAfterTwo (px py : List Byte) (s : State) (a : Nat) : Option Byte :=
  match exec (.monoData px) s with
  | .next t => monoCellAfter (.monoData py) t a
  | .fault _ => none
  | .refused _ => none

/-- R126: five bytes and five more on a window of eight; the second payload wraps, as it is no longer than the window. -/
theorem test_second_payload_wraps :
    monoCellAfterTwo (buf 5) (buf 5) fourByTwo (monoCell 1 7) = some 2 ∧
    monoCellAfterTwo (buf 5) (buf 5) fourByTwo (monoCell 0 4) = some 3 ∧
    monoCellAfterTwo (buf 5) (buf 5) fourByTwo (monoCell 0 5) = some 4 ∧
    monoCellAfterTwo (buf 5) (buf 5) fourByTwo (monoCell 0 6) = some 2 := by decide

/-- R213 (a), 93 part 1: of a payload one byte longer than the window nothing is known, of one just as long all is. -/
theorem test_over_long_payload_is_unknown :
    monoCellAfter (.monoData (buf 8)) fourByTwo (monoCell 1 7) = some 7 ∧
    monoCellAfter (.monoData (buf 9)) fourByTwo (monoCell 1 7) = none := by decide

/-- R605: the SWRESET row leaves the panel unsettled, and a delay settles it. -/
theorem test_swreset_unsettles :
    (ColorPanel.receive colorC2 .reset (cmdE [0x01])).settled = false ∧
    ((ColorPanel.receive colorC2 .reset (cmdE [0x01])).receive colorC2 (delayE 0)).settled = true := by decide

/-- R126 on two pages of four columns: the pointer wraps to the next page. -/
theorem test_window_sink :
    (match exec (.monoWrite 8 0 (desc 4 16 4 8) (buf 8)) (onMono monoM6) with
     | .next t => [Memory.read t.mono.panel.cells (monoCell 0 11), Memory.read t.mono.panel.cells (monoCell 1 8),
         Memory.read t.mono.panel.cells (monoCell 0 12)]
     | _ => []) = [some 3, some 4, none] := by decide

/-- R106: bit 7 first, the data/command line by kind. -/
theorem test_spi_frame : frame .spi .data [0x81] =
    [.dataCommand true, .select, .bit true, .bit false, .bit false, .bit false, .bit false, .bit false, .bit false,
      .bit true, .deselect] := by decide

/-! ## Witnesses: for each statement with hypotheses, a concrete state and operands that meet all of them -/

/-- Both instances of a test board are between operations. -/
theorem board_idle (m : MonoCfg) (c : ColorCfg) (k : Consts) (ph : Phase) (l : List Bool) :
    (board m c k ph l).mono.regs.idle ∧ (board m c k ph l).color.regs.idle :=
  ⟨⟨rfl, rfl, rfl, rfl, rfl⟩, ⟨rfl, rfl, rfl, rfl, rfl⟩⟩

theorem witness_DecodeOfEncode : Instr.wellFormed .sh1106 (.monoDcdc 0x8B) = true ∧
    Instr.wellFormed .ssd1306 (.monoIref 0x30) = true ∧ Instr.wellFormed .ssd1309 (.colorData [0]) = true := by decide
theorem witness_EncodeOfDecode : decode .ssd1309 ⟨.cmd .mono, [0xAD, 0x30]⟩ = .ok (.monoIref 0x30) := by decide
theorem witness_UndefinedCodesRefused : (12 < (0x0D : Byte).toNat ∧ 12 < (0xFF : Byte).toNat) ∧
    (0x00 : Byte) = 0 ∧ 4 ≤ (4 : Byte).toNat := by decide
theorem witness_MonoCommandLengths :
    decodeMonoByte .ssd1306 0xA6 [1] = some (.monoNormal, [1]) ∧
    decodeMonoByte .sh1106 0xAD [1, 2] = some (.monoDcdc 1, [2]) ∧
    decodeMonoByte .ssd1306 0x22 [0, 7] = some (.monoPageaddr 0 7, []) := by decide
theorem witness_StepRunsOldestCall :
    (State.reset.withFetchWord 8 0x01).calls = [⟨.host .mono, [0x01]⟩] ∧
    decode (State.reset.withFetchWord 8 0x01).mcfg.chip ⟨.host .mono, [0x01]⟩ = .ok .monoInit ∧
    decode (State.reset.withFetchWord 8 0x02).mcfg.chip ⟨.cmd .mono, [0xE3]⟩ = .error (.undefinedCommand 0xE3) ∧
    State.reset.calls = [] := by decide

/-- Each clause at its boundary: a board at its bounds, a MONO one past a bound, a COLOR one past a bound. -/
theorem witness_ConstructionAdmitsWellFormed :
    construct { defaultBoard with mono := { monoM6 with width := 256, height := 8 } } ≠ .refused .badMonoConfiguration ∧
    construct { defaultBoard with mono := { monoM6 with width := 255, segmentOffset := 2 } } =
      .refused .badMonoConfiguration ∧
    construct { defaultBoard with mono := { monoM6 with height := 60 } } = .refused .badMonoConfiguration ∧
    construct { defaultBoard with k := { constsK with fillBufBytes := 4799 } } = .refused .badColorConfiguration ∧
    construct { defaultBoard with color := { colorC2 with blPwm := some ⟨16843010⟩ } } =
      .refused .badColorConfiguration := by
  refine ⟨fun h => ?_, rfl, rfl, rfl, rfl⟩
  cases h

/-- A board in Ready on which the display was switched meets the invariant, and steps. -/
theorem witness_StepKeepsInvariant : State.reset.Inv ∧
    ∃ t, step (State.reset.withFetchWord 8 0x01) = .next t ∧ t.mono.regs.phase = .ready := by
  refine ⟨⟨⟨⟨rfl, rfl, rfl, rfl, rfl⟩, rfl, fun _ => rfl, fun h => ?_, ⟨rfl, rfl, rfl, rfl⟩, rfl⟩,
    ⟨⟨rfl, rfl, rfl, rfl, rfl⟩, rfl, fun _ => ⟨rfl, rfl⟩, fun h => ?_, rfl, fun _ _ h => ?_, rfl⟩⟩, _, rfl, rfl⟩
  · cases h
  · cases h
  · cases h

/-- A step that drives a line from a state whose shadows match. -/
theorem witness_StepKeepsLineShadows :
    ∃ s t : State, s.mono.regs.shadowsMatch ∧ s.color.regs.shadowsMatch ∧ step s = .next t ∧
      t.mono.regs.supplyLine = some .deasserted :=
  ⟨{ onMono monoMH with calls := [⟨.host .mono, [0x0A]⟩] }, _, ⟨rfl, rfl, rfl, rfl⟩, ⟨rfl, rfl, rfl, rfl⟩, rfl, rfl⟩

/-- A step that transfers, for the statements about every step. -/
theorem witness_step :
    ∃ t, step { onMono monoM6 with calls := [⟨.host .mono, [0x03, 0x40]⟩] } = .next t ∧
      t.mono.regs.trace = [cmdE [0x81, 0x40]] := ⟨_, rfl, rfl⟩

theorem witness_OtherInstanceUntouched :
    (unitOf .monoSuspend = .mono ∧ ∃ t, exec .monoSuspend (onMono monoM6) = .next t) ∧
    (unitOf .colorSuspend = .color ∧ ∃ t, exec .colorSuspend (onColor colorC2) = .next t) :=
  ⟨⟨rfl, _, rfl⟩, ⟨rfl, _, rfl⟩⟩

/-- Two states that agree on one unit and not on the other. -/
theorem witness_UnitsDoNotInterfere :
    ((onMono monoM6).mono = (board monoM6 smallColor constsK .ready []).mono ∧
      (onMono monoM6).ccfg ≠ (board monoM6 smallColor constsK .ready []).ccfg) ∧
    ((onColor colorC2).color = (onMono monoMH).color ∧ (onColor colorC2).mcfg ≠ (onMono monoMH).mcfg) := by decide

theorem witness_OnlyShortBuffersFault :
    exec (.monoWrite 0 0 (desc 8 8 8 8) (buf 7)) (onMono monoM6) = .fault .hostBufferOverrun ∧
    exec (.colorWrite 0 0 (desc 2 2 2 8) (buf 7)) (onColor colorC2) = .fault .hostBufferOverrun := ⟨rfl, rfl⟩

/-- Both ways of both clauses: completed and failed. -/
theorem witness_FailedTransferAbandons :
    answerOf .monoSuspend (onMono monoM6) = okA ∧ answerOf .monoInit (onMono monoM6 [false]) = busFailedA ∧
    answerOf .colorSuspend (onColor colorC2) = okA ∧ answerOf .colorInit (onColor colorC2 [false]) = busFailedA := by
  decide

theorem witness_ErrorsComeBeforeActions :
    answerOf .monoSuspend (board monoM6 colorC2 constsK .failed []) = notReadyA ∧
    answerOf (.monoSetPixelFormat .rgb888) (onMono monoM6) = unsupportedA ∧
    answerOf (.colorWrite 0 0 (desc 2 2 1 8) (buf 8)) (onColor colorC2) = geometryA ∧
    answerOf (.monoWrite 0 0 (desc 8 24 8 20) (buf 20)) (onMono monoMH) = geometryA := by decide

theorem witness_LifecycleOnlyByInit :
    monoReg Regs.phase .monoInit (board monoM6 colorC2 constsK .failed []) = some .ready ∧
    colorReg Regs.phase .colorInit (onColor colorC2 [false]) = some .failed ∧
    monoReg Regs.indeterminate .monoSuspend (onMono monoM6 [false]) = some true ∧
    monoReg Regs.indeterminate .monoSuspend (onMono monoM6) = some false := by decide

theorem witness_ShadowsAreNeverRead : ∃ t, exec .monoResume (onMono monoMH) = .next t := ⟨_, rfl⟩

theorem witness_GatedOperationsNeedReady :
    (board monoM6 colorC2 constsK .uninit []).mono.regs.idle ∧ (board monoM6 colorC2 constsK .failed []).color.regs.idle ∧
    (board monoM6 colorC2 constsK .uninit []).mono.regs.phase ≠ .ready ∧
    (board monoM6 colorC2 constsK .failed []).color.regs.phase ≠ .ready :=
  ⟨(board_idle _ _ _ _ _).1, (board_idle _ _ _ _ _).2, by decide, by decide⟩

/-- A board in Ready between operations whose next transfer is taken: the hypotheses of UnitRejectsOperations,
MonoSetContrastSends, MonoSetPixelFormatSwitches, MonoDisplayOperations, OnlyIdentityOrientation, ColorBlankingOffSends,
ColorDisplayAndSleepOperations, ColorOnlyCompiledFormat and of the wire rows' statements. -/
theorem witness_ready_and_taken :
    (onMono monoMH).mono.regs.idle ∧ (onMono monoMH).mono.regs.phase = .ready ∧
    (onMono monoMH).mono.env.xfer.head = true ∧ (onColor colorC2).color.regs.idle ∧
    (onColor colorC2).color.regs.phase = .ready ∧ (onColor colorC2).color.env.xfer.head = true :=
  ⟨(board_idle _ _ _ _ _).1, rfl, rfl, (board_idle _ _ _ _ _).2, rfl, rfl⟩

/-- The same with the next transfer failing: the failure clauses of those statements. -/
theorem witness_ready_and_failing :
    (onMono monoM6 [false]).mono.regs.idle ∧ (onMono monoM6 [false]).mono.regs.phase = .ready ∧
    (onMono monoM6 [false]).mono.env.xfer.head = false ∧ (onColor colorC2 [false]).color.regs.idle ∧
    (onColor colorC2 [false]).color.regs.phase = .ready ∧ (onColor colorC2 [false]).color.env.xfer.head = false :=
  ⟨(board_idle _ _ _ _ _).1, rfl, rfl, (board_idle _ _ _ _ _).2, rfl, rfl⟩

/-- The clauses of MonoSetPixelFormatSwitches: a colour format, the current one, another one. -/
theorem witness_MonoSetPixelFormatSwitches :
    answerOf (.monoSetPixelFormat .rgb565) (onMono monoM6) = unsupportedA ∧
    (onMono monoM6).mono.regs.pf = .monoNormal ∧ Format.monoInverted ≠ (onMono monoM6).mono.regs.pf := by decide

theorem witness_MonoInitCompletes :
    (onMono monoM9).mono.regs.idle ∧ monoHandlesReady (onMono monoM9) ∧
    (onMono monoM9).mono.env.okFor (monoInitTrace constsK .spec monoM9) :=
  ⟨(board_idle _ _ _ _ _).1, ⟨rfl, fun _ => rfl, fun _ => rfl⟩, fun j _ => by cases j <;> rfl⟩

/-- The clauses of MonoInitEnds: all transfers taken, and the fourth failing. -/
theorem witness_MonoInitEnds :
    (onMono monoM6 [true, true, true, false]).mono.regs.idle ∧
    monoHandlesReady (onMono monoM6 [true, true, true, false]) ∧
    answerOf .monoInit (onMono monoM6 [true, true, true, false]) = busFailedA ∧
    answerOf .monoInit (onMono monoM6) = okA :=
  ⟨(board_idle _ _ _ _ _).1, ⟨rfl, fun _ => rfl, fun _ => rfl⟩, by decide, by decide⟩

/-- A board whose bus is not ready. -/
def busDown : State :=
  let s := board monoM6 colorC2 constsK .uninit []
  { s with
    mono := { s.mono with env := { s.mono.env with bus := { script := [false], rest := true } } },
    color := { s.color with env := { s.color.env with bus := { script := [false], rest := true } } } }

theorem witness_InitNeedsReadyHandles : busDown.mono.regs.idle ∧ ¬ monoHandlesReady busDown ∧
    busDown.color.regs.idle ∧ ¬ colorHandlesReady busDown := by
  refine ⟨⟨rfl, rfl, rfl, rfl, rfl⟩, fun h => ?_, ⟨rfl, rfl, rfl, rfl, rfl⟩, fun h => ?_⟩
  · exact absurd h.1 (by decide)
  · exact absurd h.1 (by decide)

/-- A rectangle at the panel's last column and page. -/
theorem witness_MonoDefaultWriteCompletes :
    monoAccepted 128 64 120 56 (desc 8 8 8 8) ∧
    (8 = min (desc 8 8 8 8).bufSize.toNat ((desc 8 8 8 8).height.toNat * (desc 8 8 8 8).width.toNat / 8)) ∧
    (onMono monoM6).mono.env.okFor (monoDefaultTrace .spec monoM6 120 56 (desc 8 8 8 8) (buf 8) 8) ∧
    8 ≤ (buf 8).length ∧ (onMono monoM6).mcfg.chip ≠ .sh1106 :=
  ⟨by unfold monoAccepted; decide, by decide, fun j _ => by cases j <;> rfl, by decide, by decide⟩

theorem witness_MonoQuirkWriteCompletes :
    monoAccepted 128 64 0 8 (desc 8 16 8 16) ∧ (onMono monoMH).mcfg.chip = .sh1106 ∧
    (0 < min (desc 8 16 8 16).bufSize.toNat ((desc 8 16 8 16).height.toNat * (desc 8 16 8 16).width.toNat / 8)) ∧
    16 / 8 * 8 ≤ (desc 8 16 8 16).bufSize.toNat ∧ 16 / 8 * 8 ≤ (buf 16).length ∧
    (onMono monoMH).mono.env.okFor (monoQuirkTrace .spec monoMH 0 8 (desc 8 16 8 16) (buf 16) 2) :=
  ⟨by unfold monoAccepted; decide, rfl, by decide, by decide, by decide, fun j _ => by cases j <;> rfl⟩

/-- One byte short of two pages: one page fits. -/
theorem witness_MonoQuirkGuardStops :
    monoAccepted 128 64 0 8 (desc 8 16 8 15) ∧ (desc 8 16 8 15).bufSize.toNat < 16 / 8 * 8 ∧
    15 / 8 * 8 ≤ (buf 15).length ∧
    (onMono monoMH).mono.env.okFor (monoQuirkTrace .spec monoMH 0 8 (desc 8 16 8 15) (buf 15) 1) :=
  ⟨by unfold monoAccepted; decide, by decide, by decide, fun j _ => by cases j <;> rfl⟩

/-- One pixel past the panel; and effective length 0. -/
theorem witness_MonoWriteRejects :
    ¬ monoAccepted 128 64 120 0 (desc 9 8 9 9) ∧
    min (desc 1 7 1 10).bufSize.toNat ((desc 1 7 1 10).height.toNat * (desc 1 7 1 10).width.toNat / 8) = 0 :=
  ⟨by unfold monoAccepted; decide, by decide⟩

/-- The last page of the panel; one row short of a page at row 0, where the page end is 0xFF; a whole page there. -/
theorem witness_MonoAddressesFit : monoCfgOk monoMH = true ∧ monoAccepted 128 64 120 56 (desc 8 8 8 8) ∧
    monoPageEnd 56 8 = 7 ∧ 0 < (desc 8 8 8 8).height.toNat / 8 ∧ monoAccepted 128 64 0 0 (desc 8 7 8 7) ∧
    monoPageEnd 0 7 = 0xFF ∧ monoAccepted 128 64 0 0 (desc 8 8 8 8) ∧ monoPageEnd 0 8 = 0 :=
  ⟨by decide, by unfold monoAccepted; decide, by decide, by decide, by unfold monoAccepted; decide, by decide,
    by unfold monoAccepted; decide, by decide⟩

theorem witness_MonoPixelFormatIdempotent :
    answerOf (.monoSetPixelFormat .monoInverted) (onMono monoM6) = okA := by decide

theorem witness_ColorInitCompletes :
    (onColor colorC2).color.regs.idle ∧ colorHandlesReady (onColor colorC2) ∧
    (onColor colorC2).color.env.okFor (colorInitTrace constsK .spec colorC2) :=
  ⟨(board_idle _ _ _ _ _).2, ⟨rfl, fun _ => rfl, fun _ => rfl⟩, fun j _ => by cases j <;> rfl⟩

theorem witness_ColorInitStopsAtFailure :
    (onColor colorC2 [true, false]).color.regs.idle ∧ colorHandlesReady (onColor colorC2 [true, false]) ∧
    ¬ (onColor colorC2 [true, false]).color.env.okFor (colorInitTrace constsK .spec colorC2) :=
  ⟨(board_idle _ _ _ _ _).2, ⟨rfl, fun _ => rfl, fun _ => rfl⟩, fun h => absurd (h 1 (by decide)) (by decide)⟩

theorem witness_ColorContiguousWriteCompletes :
    (desc 2 3 2 12).pitch = (desc 2 3 2 12).width ∧ (desc 2 3 2 12).width ≠ 0 ∧ (desc 2 3 2 12).height ≠ 0 ∧
    2 * 3 * (onColor colorC2).ccfg.pixelFormat.bytes ≤ (desc 2 3 2 12).bufSize.toNat ∧ 12 ≤ (buf 12).length ∧
    (onColor colorC2).color.env.okFor (colorWindowTrace .spec colorC2 0xFFFF 0 2 3 ++ [datE (buf 12)]) :=
  ⟨rfl, by decide, by decide, by decide, by decide, fun j _ => by cases j <;> rfl⟩

theorem witness_ColorStridedWriteCompletes :
    (desc 2 3 5 24).width.toNat < (desc 2 3 5 24).pitch.toNat ∧
    ((3 - 1) * 5 + 2) * (onColor colorC2).ccfg.pixelFormat.bytes = (desc 2 3 5 24).bufSize.toNat ∧
    24 ≤ (buf 24).length ∧ (onColor colorC2).color.env.xfer.answer 7 = true := by decide

/-- Pitch one short, an empty rectangle, and a buffer one byte short. -/
theorem witness_ColorWriteTurnedAway :
    (desc 10 10 9 200).pitch.toNat < (desc 10 10 9 200).width.toNat ∧ (desc 0 1 0 0).width = 0 ∧
    ¬ ((desc 10 10 10 199).pitch.toNat < (desc 10 10 10 199).width.toNat ∨ (desc 10 10 10 199).width = 0 ∨
      (desc 10 10 10 199).height = 0) ∧
    (desc 10 10 10 199).bufSize.toNat < ((10 - 1) * 10 + 10) * (onColor colorC2).ccfg.pixelFormat.bytes := by decide

/-- A board whose backlight PWM is not ready. -/
def pwmDown (c : ColorCfg) : State :=
  let s := onColor c
  { s with color := { s.color with env := { s.color.env with pwm := { script := [], rest := false } } } }

/-- The clauses of BrightnessByPwm: a PWM that is ready, one that is not, none. -/
theorem witness_BrightnessByPwm :
    colorC2.blPwm = some ⟨1000⟩ ∧ (onColor colorC2).color.env.pwm.head = true ∧
    (pwmDown colorC2).color.env.pwm.head = false ∧ colorC2.blGpio = none ∧
    answerOf (.colorSetBrightness 200) (pwmDown colorC2) = notReadyA ∧
    answerOf (.colorSetBrightness 200) (onColor { colorC2 with blPwm := none }) = unsupportedA := by decide

/-- A PWM that is not ready with a GPIO beside it, at b = 0 and b = 1. -/
theorem witness_BrightnessByGpio :
    colorRun (.colorSetBrightness 0) (pwmDown { colorC2 with blGpio := some ⟨true⟩ }) =
      some ([gpioE .backlight .deasserted], okA) ∧
    colorRun (.colorSetBrightness 1) (pwmDown { colorC2 with blGpio := some ⟨true⟩ }) =
      some ([gpioE .backlight .asserted], okA) ∧
    (pwmDown { colorC2 with blGpio := some ⟨true⟩ }).color.env.pwm.head = false := by decide

theorem witness_DutyLaw : (7 : Byte).toNat ≤ (8 : Byte).toNat ∧ pwmOk (some ⟨16843009⟩) = true := by decide

theorem witness_FillTilesThePanel :
    colorCfgOk smallConsts smallColor = true ∧ [0xF8, (0x00 : Byte)].length = smallColor.pixelFormat.bytes ∧
    [(0xF8 : Byte)].length ≠ smallColor.pixelFormat.bytes ∧ (onColor smallColor).color.env.xfer.answer 17 = true := by
  decide

theorem witness_ColorCommandsSend :
    (onColor colorC2).color.env.okFor (cmdpE 0x26 [0x01]) ∧ (onColor colorC2).color.env.okFor (cmdpE 0xB1 []) :=
  ⟨fun j _ => by cases j <;> rfl, fun j _ => by cases j <;> rfl⟩

theorem witness_EmittedBytesAreTheEncoding :
    ((onMono monoM6).mop = MonoOps.spec ∧ (encode (.monoContrast 3)).port = .cmd .mono ∧
      ∃ t, exec (.monoContrast 3) (onMono monoM6) = .next t) ∧
    (onColor colorC2).cop = ColorOps.spec ∧ (encode .colorSlpout).port = .cmd .color ∧
      (encode .colorSlpout).bytes = [0x11] ∧ ∃ t, exec .colorSlpout (onColor colorC2) = .next t :=
  ⟨⟨rfl, rfl, _, rfl⟩, rfl, rfl, rfl, _, rfl⟩

/-- A board whose MONO panel points at column 252. -/
def nearEdge : State :=
  let s := onMono monoMH
  { s with mono := { s.mono with panel := { s.mono.panel with col := 252 } } }

/-- A payload that ends at the last column. -/
theorem witness_PageDataStoresConsecutively :
    buf 4 ≠ [] ∧ nearEdge.mcfg.chip = .sh1106 ∧ nearEdge.mono.regs.indeterminate = false ∧ nearEdge.mono.panel.settled = true ∧
    nearEdge.mono.env.xfer.head = true ∧
    nearEdge.mono.panel.col + (buf 4).length = nearEdge.mono.panel.lastCol + 1 := by decide

/-- A board whose soft-reset string is not empty. -/
def softReset : State :=
  let s := onMono monoM6
  { s with k := { s.k with monoSoftResetCmd := [0xE2] } }

theorem witness_DefaultWriteFillsItsPages :
    softReset.k.monoSoftResetCmd ≠ [0x20, 0x00, 0x21, monoColumnStart monoM6 8, monoColumnEnd monoM6 8 4, 0x22,
      monoPageStart 0, monoPageEnd 0 16] ∧
    softReset.mono.regs.indeterminate = false ∧ softReset.mono.panel.settled = true ∧ monoCfgOk monoM6 = true ∧
    monoAccepted 128 64 8 0 (desc 4 16 4 8) ∧ (desc 4 16 4 8).height.toNat % 8 = 0 ∧
    16 / 8 * 4 ≤ (desc 4 16 4 8).bufSize.toNat ∧ 16 / 8 * 4 ≤ (buf 8).length ∧ softReset.mono.env.xfer.answer 1 = true ∧
    ∃ t, exec (.monoWrite 8 0 (desc 4 16 4 8) (buf 8)) softReset = .next t :=
  ⟨by decide, rfl, rfl, by decide, by unfold monoAccepted; decide, by decide, by decide, by decide, rfl, _, rfl⟩

theorem witness_ContiguousWriteFillsItsWindow :
    (onColor smallColor).color.panel.pending = [] ∧ (onColor smallColor).color.panel.formatOk = true ∧
    (onColor smallColor).color.panel.settled = true ∧
    (onColor smallColor).color.regs.indeterminate = false ∧ (desc 2 5 2 20).pitch = (desc 2 5 2 20).width ∧
    (desc 2 5 2 20).width ≠ 0 ∧ (desc 2 5 2 20).height ≠ 0 ∧ 0 + 2 ≤ smallColor.width.toNat ∧
    0 + 5 ≤ smallColor.height.toNat ∧ 2 * 5 * smallColor.pixelFormat.bytes ≤ (desc 2 5 2 20).bufSize.toNat ∧
    20 ≤ (buf 20).length ∧
    colorRun (.colorWrite 0 0 (desc 2 5 2 20) (buf 20)) (onColor smallColor) ≠ none := by decide

theorem witness_StridedWriteFillsItsWindow :
    (onColor smallColor).color.panel.settled = true ∧ (desc 1 2 3 8).width.toNat < (desc 1 2 3 8).pitch.toNat ∧
    1 + 1 ≤ smallColor.width.toNat ∧ 3 + 2 ≤ smallColor.height.toNat ∧
    ((2 - 1) * 3 + 1) * smallColor.pixelFormat.bytes ≤ (desc 1 2 3 8).bufSize.toNat ∧ 8 ≤ (buf 8).length ∧
    (onColor smallColor).color.env.xfer.answer 6 = true ∧
    colorRun (.colorWrite 1 3 (desc 1 2 3 8) (buf 8)) (onColor smallColor) ≠ none := by decide

theorem witness_SettingsKeepThePixelStore :
    softReset.mono.regs.indeterminate = false ∧ softReset.mono.panel.settled = true ∧ softReset.mcfg.supplyGpio = none ∧
    (∃ t, exec .monoSuspend softReset = .next t ∧
      ∀ e ∈ t.mono.regs.trace.drop softReset.mono.regs.trace.length, e.act ≠ .xfer .cmd softReset.k.monoSoftResetCmd) ∧
    (onColor colorC2).color.panel.pending = [] ∧ (onColor colorC2).color.panel.settled = true ∧
    (onColor colorC2).color.regs.indeterminate = false ∧ ∃ t, exec (.colorSetBrightness 9) (onColor colorC2) = .next t :=
  ⟨rfl, rfl, rfl, ⟨_, rfl, by decide⟩, rfl, rfl, rfl, _, rfl⟩

end Sys2Proof.Tests
end

/-!
PROOFS. The family of the MONO operations: how a MONO init ends (R205) and set_contrast (R217). Both rest on one rule,
`runMono_fails`: the counterpart of `runMono_ok` for an operation one of whose transfers is not taken.
-/

namespace Sys2Proof.Machine

/-! ## What a sequence leaves in the lasting registers -/

/-- Recording an entry and writing the lasting registers do not interfere. -/
theorem lastingOf_record (ms : List Micro) (q : Regs) (e : Entry) :
    (lastingOf ms q).record e = lastingOf ms (q.record e) := by
  induction ms generalizing q with
  | nil => rfl
  | cons m ms ih =>
    have hm : (m.lasting q).record e = m.lasting (q.record e) := by
      cases m with
      | act a =>
        cases a with
        | gpio l v => cases l <;> rfl
        | _ => rfl
      | send a n => rfl
      | set w => cases w <;> rfl
    rw [lastingOf_cons, lastingOf_cons, ih, hm]

theorem lastingOf_trace (ms : List Micro) (q : Regs) : (lastingOf ms q).trace = q.trace := by
  induction ms generalizing q with
  | nil => rfl
  | cons m ms ih =>
    rw [lastingOf_cons, ih]
    cases m with
    | act a => exact Regs.effect_trace q a
    | send a n => rfl
    | set w => cases w <;> rfl

/-- Actions alone write neither the format nor the display shadow: they drive lines only. -/
theorem lastingOf_acts {ms : List Micro} (h : ∀ m ∈ ms, ∃ a, m = .act a) (q : Regs) :
    (lastingOf ms q).pf = q.pf ∧ (lastingOf ms q).dispOn = q.dispOn := by
  induction ms generalizing q with
  | nil => exact ⟨rfl, rfl⟩
  | cons m ms ih =>
    obtain ⟨⟨a, rfl⟩, hms⟩ := List.forall_mem_cons.1 h
    obtain ⟨hpf, hdisp⟩ := ih hms (q.effect a)
    exact ⟨hpf.trans (Regs.effect_pf q a), hdisp.trans (Regs.effect_dispOn q a)⟩

/-! ## The line shadows -/

/-- The level an entry drives on a line, if it drives it. -/
def Entry.drives (l : Line) (e : Entry) : Option Level :=
  match e.act with
  | .gpio l' v => if l' = l then some v else none
  | _ => none

/-- The shadow of a line (R42). -/
def Regs.line (q : Regs) : Line → Option Level
  | .reset => q.resetLine
  | .supply => q.supplyLine
  | .backlight => q.blLine

theorem lastLevel_concat (l : Line) (es : List Entry) (e : Entry) :
    lastLevel l (es ++ [e]) = (e.drives l).or (lastLevel l es) := by
  obtain ⟨a, ok⟩ := e
  simp only [lastLevel, List.foldl_concat, Entry.drives]
  cases a with
  | gpio l' v =>
    dsimp only
    split <;> rfl
  | _ => rfl

/-- What a list drives on a line last is what its second part does, if it drives the line at all. -/
theorem lastLevel_append (l : Line) (es fs : List Entry) :
    lastLevel l (es ++ fs) = (lastLevel l fs).or (lastLevel l es) := by
  induction fs using List.reverseRecOn with
  | nil => rw [List.append_nil]; rfl
  | append_singleton fs e ih => rw [← List.append_assoc, lastLevel_concat, lastLevel_concat, ih, Option.or_assoc]

theorem Regs.line_effect (q : Regs) (a : Act) (ok : Bool) (l : Line) :
    (q.effect a).line l = (Entry.drives l ⟨a, ok⟩).or (q.line l) := by
  cases a with
  | gpio l' v => cases l' <;> cases l <;> rfl
  | _ => rfl

theorem Micro.lasting_line (pix : List Byte) (m : Micro) (q : Regs) (l : Line) :
    (m.lasting q).line l = (lastLevel l (m.entries pix)).or (q.line l) := by
  cases m with
  | act a =>
    have hlast : lastLevel l [⟨a, true⟩] = Entry.drives l ⟨a, true⟩ := by
      rw [← List.nil_append [_], lastLevel_concat]
      exact Option.or_none
    rw [Micro.entries, hlast]
    exact Regs.line_effect q a true l
  | send a n => rfl
  | set w => cases w <;> rfl

/-- A sequence leaves on a line's shadow the level it drove last, or what was there. -/
theorem lastingOf_line (pix : List Byte) (ms : List Micro) (q : Regs) (l : Line) :
    (lastingOf ms q).line l = (lastLevel l (entriesOf pix ms)).or (q.line l) := by
  induction ms generalizing q with
  | nil => rfl
  | cons m ms ih =>
    rw [lastingOf_cons, ih, Micro.lasting_line pix, entriesOf_cons, lastLevel_append, Option.or_assoc]

/-! ## The transport's answers to a list of actions -/

/-- The outcomes of the transfers of a list are the answers of a draw, in order. -/
def Draw.gave (d : Draw) (es : List Entry) : Prop :=
  ∀ j, j < xferCount es → ((es.filter fun e => e.act.isXfer)[j]?).map Entry.ok = some (d.answer j)

theorem entriesOf_ok (pix : List Byte) (ms : List Micro) : ∀ e ∈ entriesOf pix ms, e.ok = true := by
  intro e he
  obtain ⟨m, -, hm⟩ := List.mem_flatMap.1 he
  cases m with
  | act a => rw [List.mem_singleton.1 hm]
  | send a n => rw [List.mem_singleton.1 hm]
  | set w => contradiction

theorem xferCount_eq_length (es : List Entry) : xferCount es = (es.filter fun e => e.act.isXfer).length :=
  List.countP_eq_length_filter

/-- A list all of whose transfers completed, on a transport that takes them. -/
theorem Env.gave_of_okFor {env : Env} {es : List Entry} (htaken : env.okFor es) (hok : ∀ e ∈ es, e.ok = true) :
    env.xfer.gave es := by
  intro j hj
  have hlen := hj
  rw [xferCount_eq_length] at hlen
  have hmem := List.mem_of_mem_filter (List.getElem_mem hlen)
  rw [List.getElem?_eq_getElem hlen, Option.map_some, hok _ hmem, htaken j hj]

/-- The same list followed by the first transfer that fails. -/
theorem Env.gave_of_failed {env : Env} {es : List Entry} {e : Entry} (htaken : env.okFor es)
    (hok : ∀ e ∈ es, e.ok = true) (hx : e.act.isXfer = true) (he : e.ok = false)
    (hfail : env.xfer.answer (xferCount es) = false) : env.xfer.gave (es ++ [e]) := by
  intro j hj
  have hfilter : (es ++ [e]).filter (fun e => e.act.isXfer) = es.filter (fun e => e.act.isXfer) ++ [e] := by
    simp [hx]
  rw [hfilter]
  rcases Nat.lt_or_ge j (xferCount es) with hlt | hge
  · rw [List.getElem?_append_left (by rwa [← xferCount_eq_length])]
    exact Env.gave_of_okFor htaken hok j hlt
  · have hcount : xferCount (es ++ [e]) = xferCount es + 1 := by simp [xferCount_append, xferCount_cons, hx]
    obtain rfl : j = xferCount es := by omega
    rw [xferCount_eq_length, List.getElem?_concat_length, ← xferCount_eq_length, hfail, Option.map_some, he]

/-! ## Operations that end at a failed transfer -/

section
variable {π : Type} (sink : π → Entry → π) (b : Bool)

/-- A plan that reads no buffer, at its first transfer that is not taken: what was performed before it stands, its entry
is the last, and the updates of R505 follow. -/
theorem runPlan_failsAt (ms₁ ms₂ : List Micro) (f : Kind) (bytes : List Byte) (fin : Final) (q : Inst π)
    (h : q.regs.idle) (hw : ∀ m ∈ ms₁, m.within [] ∧ ∀ a n, m ≠ .send a n) (hok : q.env.okFor (entriesOf [] ms₁))
    (hfail : q.env.xfer.answer (xferCount (entriesOf [] ms₁)) = false) :
    runPlan sink b ⟨ms₁ ++ .act (.xfer f bytes) :: ms₂, fin⟩ q = .done .busTransferFailure
      (let q' := q.after sink (entriesOf [] ms₁ ++ [⟨.xfer f bytes, false⟩])
       { q' with regs := (lastingOf ms₁ q'.regs).abandon b }) := by
  have hbefore := runMicros_ok sink b [] ms₁ (.result .ok) { q with regs := q.regs.begin }
    (fun ⟨a, n, hm⟩ => absurd rfl ((hw _ hm).2 a n)) (fun m hm => (hw m hm).1) hok
  have hhead : (q.env.xfer.dropped (xferCount (entriesOf [] ms₁))).head = false := by
    rw [← hfail, ← Draw.answer_zero]
    simp [Draw.dropped, Draw.answer]
  have hregs : (((ms₁.foldl (Micro.onRegs []) q.regs.begin).record ⟨.xfer f bytes, false⟩).abandon b).finish =
      (lastingOf ms₁
        { q.regs with trace := q.regs.trace ++ (entriesOf [] ms₁ ++ [⟨.xfer f bytes, false⟩]) }).abandon b :=
    calc _ = ((ms₁.foldl (Micro.onRegs []) q.regs.begin).finish.record ⟨.xfer f bytes, false⟩).abandon b := rfl
      _ = _ := by
        rw [foldl_onRegs_finish, Regs.begin_finish h, lastingOf_record]
        simp [Regs.record]
  unfold runPlan
  dsimp only
  rw [runMicros_append, hbefore]
  dsimp only [runMicros]
  rw [perform_xfer_err _ _ _ _ hhead]
  dsimp only
  rw [hregs]
  simp [Inst.after, xferCount_append, xferCount_cons, Act.isXfer, Draw.tail, Draw.dropped]

/-- A plan that reads no buffer, when not all of its transfers are taken: it ends at the first of them. -/
theorem runMono_fails (ms : List Micro) (r : Result) (s : State) (h : s.mono.regs.idle)
    (hw : ∀ m ∈ ms, m.within [] ∧ ∀ a n, m ≠ .send a n) (hok : ¬ s.mono.env.okFor (entriesOf [] ms)) :
    ∃ ms₁ f bytes ms₂, ms = ms₁ ++ .act (.xfer f bytes) :: ms₂ ∧ s.mono.env.okFor (entriesOf [] ms₁) ∧
      s.mono.env.xfer.answer (xferCount (entriesOf [] ms₁)) = false ∧
      runMono b ⟨ms, .result r⟩ s = .next (s.monoDid (entriesOf [] ms₁ ++ [⟨.xfer f bytes, false⟩])
        (fun q => (lastingOf ms₁ q).abandon b) .busTransferFailure) := by
  obtain ⟨ms₁, m, ms₂, e, -, rfl, hentry, hx, hok₁, hfail, -, -⟩ :=
    runMicros_fails s.monoSink b [] ms (.result r) s.mono
      (fun ⟨a, n, hm⟩ => absurd rfl ((hw _ hm).2 a n)) (fun m hm => (hw m hm).1) hok
  have hm : ∃ f bytes, m = .act (.xfer f bytes) := by
    cases m with
    | set w => simp [Micro.entries] at hentry
    | send a n => exact absurd rfl ((hw _ (by simp)).2 a n)
    | act a =>
      obtain rfl : ⟨a, true⟩ = e := by simpa [Micro.entries] using hentry
      cases a with
      | xfer f bytes => exact ⟨f, bytes, rfl⟩
      | _ => simp [Act.isXfer] at hx
  obtain ⟨f, bytes, rfl⟩ := hm
  refine ⟨ms₁, f, bytes, ms₂, rfl, hok₁, hfail, ?_⟩
  unfold runMono
  rw [runPlan_failsAt _ b ms₁ ms₂ f bytes _ _ h (fun m hm => hw m (List.mem_append_left _ hm)) hok₁ hfail]
  rfl

end

/-! ## set_contrast -/

/-- Settles O32: the plan is one command transfer behind the phase gate, so `runMono_ok`, `runMono_fails` and
`runMono_raise` give its three ends. -/
theorem monoSetContrastSends : Obligations.MonoSetContrastSends := by
  intro v s hidle
  have hexec : exec (.monoSetContrast v) s =
      runMono false (gate s.mono.regs ⟨[cmd [s.mop.contrast, v]], .result .ok⟩) s := rfl
  have hreads : ∀ m ∈ [cmd [s.mop.contrast, v]], m.within [] ∧ ∀ a n, m ≠ .send a n := by
    simp [cmd, Micro.within]
  refine ⟨fun hready htaken => ?_, fun hready hfails => ?_, fun hready => ?_⟩
  · rw [hexec, gate_ready _ hready]
    exact runMono_ok false _ _ _ hidle hreads (Env.okFor_one le_rfl htaken)
  · have hnot : ¬ s.mono.env.okFor (entriesOf [] [cmd [s.mop.contrast, v]]) := fun hok => by
      have hzero := hok 0 Nat.one_pos
      rw [Draw.answer_zero, hfails] at hzero
      contradiction
    obtain ⟨ms₁, f, bytes, ms₂, hsplit, -, -, hrun⟩ := runMono_fails false _ .ok s hidle hreads hnot
    obtain ⟨rfl, hact, -⟩ : ms₁ = [] ∧ Micro.act (.xfer f bytes) = cmd [s.mop.contrast, v] ∧ ms₂ = [] := by
      simpa [List.append_eq_singleton_iff] using hsplit.symm
    obtain ⟨rfl, rfl⟩ : f = .cmd ∧ bytes = [s.mop.contrast, v] := by simpa [cmd] using hact
    rw [hexec, gate_ready _ hready, hrun]
    rfl
  · rw [hexec, gate_not_ready _ hready]
    exact runMono_raise hidle false _

/-! ## init -/

/-- The actions of MONO init, between its first register write and its last ones (R201). -/
def monoInitActions (k : Consts) (op : MonoOps) (cfg : MonoCfg) : List Micro :=
  monoResetStep k cfg ++ monoConfigure k op cfg (initialPf cfg) ++ supplyOn cfg ++ [cmd [op.dispon]]

/-- MONO init writes the format, performs its actions, and writes the other registers after the last of them. -/
theorem monoInitPlan_eq (k : Consts) (op : MonoOps) (cfg : MonoCfg) :
    monoInitPlan k op cfg = ⟨.set (.pf (initialPf cfg)) :: (monoInitActions k op cfg ++
      [.set (.dispOn true), .set (.phase .ready), .set (.indeterminate false)]), .result .ok⟩ := by
  simp [monoInitPlan, monoInitActions, monoDisplayOn, initDone, Plan.ok]

theorem monoInitActions_acts (k : Consts) (op : MonoOps) (cfg : MonoCfg) :
    ∀ m ∈ monoInitActions k op cfg, ∃ a, m = .act a := by
  have hreset : ∀ m ∈ monoResetStep k cfg, ∃ a, m = .act a := by
    unfold monoResetStep monoHwReset monoSwReset monoSoftResetXfer
    split
    · simp [gpio, delay]
    · split <;> simp [cmd, delay]
  have hconfigure : ∀ m ∈ monoConfigure k op cfg (initialPf cfg), ∃ a, m = .act a := by
    unfold monoConfigure
    split <;> simp [cmd]
  have hsupply : ∀ m ∈ supplyOn cfg, ∃ a, m = .act a := by
    unfold supplyOn
    split <;> simp [gpio, delay]
  simp only [monoInitActions, List.forall_mem_append]
  exact ⟨⟨⟨hreset, hconfigure⟩, hsupply⟩, by simp [cmd]⟩

/-- Where a transfer stands in MONO init: only the format has been written before it, and all else before it is actions. -/
theorem monoInitPlan_split {k : Consts} {op : MonoOps} {cfg : MonoCfg} {ms₁ ms₂ : List Micro} {a : Act}
    (h : (monoInitPlan k op cfg).micros = ms₁ ++ .act a :: ms₂) :
    ∃ as, ms₁ = .set (.pf (initialPf cfg)) :: as ∧ ∀ m ∈ as, ∃ a, m = .act a := by
  rw [monoInitPlan_eq] at h
  cases ms₁ with
  | nil => simp at h
  | cons m as =>
    obtain ⟨rfl, hrest⟩ := List.cons.inj h
    refine ⟨as, rfl, fun m hm => monoInitActions_acts k op cfg m ?_⟩
    rcases List.append_eq_append_iff.1 hrest with ⟨bs, -, hwrites⟩ | ⟨bs, hactions, -⟩
    · have hmem := List.mem_append_right bs (List.mem_cons_self (a := Micro.act a) (l := ms₂))
      rw [← hwrites] at hmem
      simp at hmem
    · rw [hactions]
      exact List.mem_append_left bs hm

theorem monoInitPlan_reads_nothing (k : Consts) (op : MonoOps) (cfg : MonoCfg) :
    ∀ m ∈ (monoInitPlan k op cfg).micros, m.within [] ∧ ∀ a n, m ≠ .send a n := by
  rw [monoInitPlan_eq]
  simp only [List.forall_mem_cons, List.forall_mem_append]
  refine ⟨by simp [Micro.within], fun m hm => ?_, by simp [Micro.within]⟩
  obtain ⟨a, rfl⟩ := monoInitActions_acts k op cfg m hm
  simp [Micro.within]

/-- A whole MONO init leaves it in Ready and determinate. -/
theorem lastingOf_monoInitPlan (k : Consts) (op : MonoOps) (cfg : MonoCfg) (q : Regs) :
    (lastingOf (monoInitPlan k op cfg).micros q).phase = .ready ∧
    (lastingOf (monoInitPlan k op cfg).micros q).indeterminate = false := by
  rw [monoInitPlan_eq, lastingOf_cons, lastingOf_append]
  exact ⟨rfl, rfl⟩

/-- Once its handles answered that they are ready, MONO init runs its whole plan (R202). -/
theorem exec_monoInit_ready {s : State} (h : monoHandlesReady s) :
    exec .monoInit s = runMono true (monoInitPlan s.k s.mop s.mcfg) s.monoAsked := by
  change runMono true (if readyAll (monoHandles s.mcfg) s.mono.env then _ else _) s.monoAsked = _
  rw [if_pos ((readyAll_monoHandles s.mcfg s.mono.env).2 h)]

/-- Asking its handles takes no answer of its transport. -/
theorem State.monoAsked_xfer (s : State) : s.monoAsked.mono.env.xfer = s.mono.env.xfer := askAll_xfer _ _

/-- Settles O25: `runMono_ok` and `runMono_fails` are its two ends, and `monoInitPlan_split` says what init has written
when it reaches a transfer. -/
theorem monoInitEnds : Obligations.MonoInitEnds := by
  intro s hidle hhandles
  rw [exec_monoInit_ready hhandles, ← State.monoAsked_xfer]
  have hreads := monoInitPlan_reads_nothing s.k s.mop s.mcfg
  by_cases htaken : s.monoAsked.mono.env.okFor (entriesOf [] (monoInitPlan s.k s.mop s.mcfg).micros)
  · obtain ⟨hphase, hdet⟩ := lastingOf_monoInitPlan s.k s.mop s.mcfg
      (s.monoAsked.mono.after s.monoSink (entriesOf [] (monoInitPlan s.k s.mop s.mcfg).micros)).regs
    have hok := entriesOf_ok [] (monoInitPlan s.k s.mop s.mcfg).micros
    exact ⟨_, _, runMono_ok true _ .ok s.monoAsked hidle hreads htaken, lastingOf_trace _ _,
      Env.gave_of_okFor htaken hok, .inl ⟨hok, rfl, hphase, hdet⟩⟩
  · obtain ⟨ms₁, f, bytes, ms₂, hsplit, hok₁, hfail, hrun⟩ :=
      runMono_fails true _ .ok s.monoAsked hidle hreads htaken
    obtain ⟨as, rfl, hacts⟩ := monoInitPlan_split hsplit
    have hok := entriesOf_ok [] (.set (.pf (initialPf s.mcfg)) :: as)
    refine ⟨_, _, hrun, lastingOf_trace _ _, Env.gave_of_failed hok₁ hok rfl rfl hfail,
      .inr ⟨_, _, rfl, hok, rfl, rfl, rfl, rfl, rfl, ?pf, ?resetLine, ?supplyLine, ?dispOn⟩⟩
    case pf => exact (lastingOf_acts hacts _).1
    case resetLine => exact lastingOf_line [] _ _ .reset
    case supplyLine => exact lastingOf_line [] _ _ .supply
    case dispOn => exact (lastingOf_acts hacts _).2

end Sys2Proof.Machine

/-!
PROOFS. The family of the COLOR operations: blanking_off (R316). Its failing end rests on `runColor_failsAt`, the
counterpart of `runColor_ok` for an operation whose transfer at a known place is not taken.
-/

namespace Sys2Proof.Machine

/-- A COLOR operation that reads no buffer, at its first transfer that is not taken: what follows that transfer is
not performed, and the updates of R505 are its last register writes. -/
theorem runColor_failsAt (b : Bool) (ms₁ ms₂ : List Micro) (f : Kind) (bytes : List Byte) (fin : Final) (s : State)
    (h : s.color.regs.idle) (hw : ∀ m ∈ ms₁, m.within [] ∧ ∀ a n, m ≠ .send a n)
    (hok : s.color.env.okFor (entriesOf [] ms₁))
    (hfail : s.color.env.xfer.answer (xferCount (entriesOf [] ms₁)) = false) :
    runColor b ⟨ms₁ ++ .act (.xfer f bytes) :: ms₂, fin⟩ s =
      .next (s.colorDid (entriesOf [] ms₁ ++ [⟨.xfer f bytes, false⟩])
        (fun q => (lastingOf ms₁ q).abandon b) .busTransferFailure) := by
  unfold runColor
  rw [runPlan_failsAt _ b ms₁ ms₂ f bytes fin _ h hw hok hfail]
  rfl

/-- COLOR blanking_off sends display-on and then writes `disp_on`, behind the phase gate alone (R316). -/
theorem exec_colorBlankingOff (s : State) :
    exec .colorBlankingOff s =
      runColor false (gate s.color.regs ⟨[cmd [s.cop.dispon], .set (.dispOn true)], .result .ok⟩) s := rfl

/-- Settles O43: display-on is the first element of the plan, so a taken transfer lets the write of `disp_on` follow
(`runColor_ok`), a failed one ends the operation before it (`runColor_failsAt`), and outside Ready the plan is not run
(`runColor_raise`). -/
theorem colorBlankingOffSends : Obligations.ColorBlankingOffSends := by
  intro s hidle
  rw [exec_colorBlankingOff]
  refine ⟨fun hready htaken => ?taken, fun hready hfails => ?failed, fun hready => ?notReady⟩
  case taken =>
    have hreads : ∀ m ∈ [cmd [s.cop.dispon], .set (.dispOn true)], m.within [] ∧ ∀ a n, m ≠ .send a n := by
      simp [cmd, Micro.within]
    rw [gate_ready _ hready]
    exact runColor_ok false _ _ _ hidle hreads (Env.okFor_one le_rfl htaken)
  case failed =>
    rw [gate_ready _ hready]
    exact runColor_failsAt false [] [.set (.dispOn true)] .cmd [s.cop.dispon] _ s hidle (by simp)
      (Env.okFor_none rfl) ((Draw.answer_zero _).trans hfails)
  case notReady =>
    rw [gate_not_ready _ hready]
    exact runColor_raise hidle false _

end Sys2Proof.Machine

/-!
PROOFS. The family of the backlight: set_brightness by GPIO (R412). In Ready the operation is one plan that
`brightnessPlan` chooses; with a backlight GPIO and no usable PWM that plan drives the backlight line.
-/

namespace Sys2Proof.Machine

/-- In Ready, COLOR set_brightness asks the backlight PWM and runs the plan its answer picks (R410). -/
theorem exec_colorSetBrightness_ready (b : Byte) {s : State} (hready : s.color.regs.phase = .ready) :
    exec (.colorSetBrightness b) s =
      runColor false (brightnessPlan s.ccfg (readyAll (pwmHandles s.ccfg) s.color.env) b) s.pwmAsked :=
  if_pos (by simp [Regs.isReady, hready])

/-- A configured PWM is found ready exactly when it answers so. -/
theorem readyAll_pwmHandles {cfg : ColorCfg} (hpwm : cfg.blPwm.isSome = true) (e : Env) :
    readyAll (pwmHandles cfg) e = e.pwm.head := by
  simp [pwmHandles, hpwm, readyAll, Env.draw]

/-- The level set_brightness drives on the backlight line (R412). -/
def backlightLine (b : Byte) : Level := if 0 < b.toNat then .asserted else .deasserted

theorem backlightLine_eq (b : Byte) : backlightLine b = if b = 0 then .deasserted else .asserted := by
  have hpos : 0 < b.toNat ↔ ¬ b = 0 := by bv_omega
  simp only [backlightLine, hpos, ite_not]

/-- The sequence of the GPIO fallback (R412). -/
def gpioBrightness (b : Byte) : List Micro := [gpio .backlight (backlightLine b), .set (.backlightLevel b)]

/-- With a backlight GPIO, the PWM is passed over when it is not configured or not ready. -/
theorem brightnessPlan_gpio {cfg : ColorCfg} {pwmReady : Bool} (b : Byte) (hgpio : cfg.blGpio.isSome = true)
    (hpwm : cfg.blPwm = none ∨ pwmReady = false) : brightnessPlan cfg pwmReady b = .ok (gpioBrightness b) := by
  obtain ⟨g, hg⟩ := Option.isSome_iff_exists.1 hgpio
  unfold brightnessPlan gpioBrightness
  rw [backlightLine_eq, hg]
  rcases hpwm with hnone | rfl
  · rw [hnone]
  · cases cfg.blPwm <;> rfl

/-- The GPIO fallback emits no transfer, so it runs to its end whatever the transport answers. -/
theorem runColor_gpioBrightness (b : Byte) {s : State} (hidle : s.color.regs.idle) :
    runColor false (.ok (gpioBrightness b)) s = .next (s.colorDid [gpioE .backlight (backlightLine b)]
      (fun q => { q with blLine := some (backlightLine b), backlightLevel := some b }) .ok) := by
  have hreads : ∀ m ∈ gpioBrightness b, m.within [] ∧ ∀ a n, m ≠ .send a n := by
    simp [gpioBrightness, gpio, Micro.within]
  exact runColor_ok false (gpioBrightness b) .ok s hidle hreads (Env.okFor_none rfl)

/-- Settles O47: with no usable PWM `brightnessPlan_gpio` names the plan, and `runColor_gpioBrightness` its end. -/
theorem brightnessByGpio : Obligations.BrightnessByGpio := by
  intro b s hidle hready hgpio hpwm lvl hlvl
  obtain rfl : lvl = backlightLine b := hlvl
  have hunusable : s.ccfg.blPwm = none ∨ readyAll (pwmHandles s.ccfg) s.color.env = false := by
    rcases hpwm with hnone | hdown
    · exact .inl hnone
    · rcases Option.eq_none_or_eq_some s.ccfg.blPwm with hnone | ⟨h, hsome⟩
      · exact .inl hnone
      · exact .inr ((readyAll_pwmHandles (Option.isSome_of_eq_some hsome) s.color.env).trans hdown)
  rw [exec_colorSetBrightness_ready b hready, brightnessPlan_gpio b hgpio hunusable]
  exact runColor_gpioBrightness b (s := s.pwmAsked) hidle

end Sys2Proof.Machine

/-!
PROOFS. What a whole operation can do, said once (R33, R505): `runPlan_ends` is the inversion of `runPlan`, from any
unit, and every rule of the whole machine follows from it and from the plan of the instruction.
-/

namespace Sys2Proof.Machine

section
variable {π : Type} (sink : π → Entry → π) (b : Bool)

/-! ## Instances at rest -/

/-- A unit with its registers changed. -/
def Inst.withRegs (f : Regs → Regs) (q : Inst π) : Inst π := { q with regs := f q.regs }

/-- A unit whose working registers are let go. -/
def Inst.rested (q : Inst π) : Inst π := q.withRegs Regs.finish

/-- A unit between operations is at rest. -/
theorem Inst.rested_of_idle {q : Inst π} (h : q.regs.idle) : q.rested = q := by
  have hfinish : q.regs.finish = q.regs := Regs.begin_finish h
  simp [Inst.rested, Inst.withRegs, hfinish]

theorem Draw.dropped_dropped (d : Draw) (m n : Nat) : (d.dropped m).dropped n = d.dropped (m + n) := by
  simp [Draw.dropped]

@[simp] theorem Inst.after_nil (q : Inst π) : q.after sink [] = q := by simp [Inst.after]

/-- Performing a list of actions is performing its parts one after the other. -/
theorem Inst.after_append (es fs : List Entry) (q : Inst π) :
    q.after sink (es ++ fs) = (q.after sink es).after sink fs := by
  simp [Inst.after, xferCount_append, Draw.dropped_dropped]

/-- A lasting write and the recording of actions do not interfere. -/
theorem Micro.lasting_trace_append (m : Micro) (q : Regs) (es : List Entry) :
    m.lasting { q with trace := q.trace ++ es } =
      { m.lasting q with trace := (m.lasting q).trace ++ es } := by
  cases m with
  | act a =>
    cases a with
    | gpio l v => cases l <;> rfl
    | _ => rfl
  | send a n => rfl
  | set w => cases w <;> rfl

theorem Inst.after_withRegs_lasting (m : Micro) (es : List Entry) (q : Inst π) :
    (q.withRegs m.lasting).after sink es = (q.after sink es).withRegs m.lasting := by
  simp only [Inst.after, Inst.withRegs, Micro.lasting_trace_append]

/-! ## The actions of a sequence -/

/-- The pixel buffer in use after a register write. -/
def RegWrite.buffer (pix : Option (List Byte)) : RegWrite → Option (List Byte)
  | .pix bytes => some bytes
  | _ => pix

theorem Regs.write_pix (q : Regs) (w : RegWrite) : (q.write w).pix = w.buffer q.pix := by cases w <;> rfl

/-- The actions a sequence leaves in the trace when all of it is performed, over the pixel buffer in use. -/
inductive Runs : Option (List Byte) → List Micro → List Entry → Prop
  | nil {pix} : Runs pix [] []
  | act {pix ms es} (a : Act) (hrest : Runs pix ms es) : Runs pix (.act a :: ms) (⟨a, true⟩ :: es)
  | send {pix a n s ms es} (hread : memRead pix a n = some s) (hrest : Runs pix ms es) :
      Runs pix (.send a n :: ms) (datE s :: es)
  | set {pix w ms es} (hrest : Runs (w.buffer pix) ms es) : Runs pix (.set w :: ms) es

/-- An element of a sequence makes this transfer. -/
def Micro.sends (f : Kind) (s : List Byte) (m : Micro) : Prop :=
  m = .act (.xfer f s) ∨ f = .data ∧ ∃ a, m = .send a s.length

theorem memRead_length {pix : Option (List Byte)} {a n : Nat} {s : List Byte} (h : memRead pix a n = some s) :
    s.length = n := by
  cases pix with
  | none => simp [memRead] at h
  | some bytes =>
    simp only [memRead, Option.ite_none_right_eq_some, Option.some.injEq] at h
    obtain ⟨hle, rfl⟩ := h
    simp only [List.length_take, List.length_drop]
    omega

/-- Every action of a sequence comes from one of its elements, and completed. -/
theorem Runs.mem {pix : Option (List Byte)} {ms : List Micro} {es : List Entry} (h : Runs pix ms es) :
    ∀ e ∈ es, e.ok = true ∧ (.act e.act ∈ ms ∨ ∃ a s, e.act = .xfer .data s ∧ .send a s.length ∈ ms) := by
  induction h with
  | nil => simp
  | act a _ ih =>
    refine List.forall_mem_cons.2 ⟨⟨rfl, .inl (List.mem_cons_self ..)⟩, fun e he => ?_⟩
    exact (ih e he).imp_right
      (.imp (List.mem_cons_of_mem _) fun ⟨a, s, hs, hm⟩ => ⟨a, s, hs, List.mem_cons_of_mem _ hm⟩)
  | send hread _ ih =>
    refine List.forall_mem_cons.2 ⟨⟨rfl, .inr ⟨_, _, rfl, by rw [memRead_length hread]; exact List.mem_cons_self ..⟩⟩, fun e he => ?_⟩
    exact (ih e he).imp_right
      (.imp (List.mem_cons_of_mem _) fun ⟨a, s, hs, hm⟩ => ⟨a, s, hs, List.mem_cons_of_mem _ hm⟩)
  | set _ ih =>
    exact fun e he => (ih e he).imp_right
      (.imp (List.mem_cons_of_mem _) fun ⟨a, s, hs, hm⟩ => ⟨a, s, hs, List.mem_cons_of_mem _ hm⟩)

/-! ## The inversion of a whole operation -/

/-- How an operation ends: its whole sequence performed, with the plan's own result; or at the first transfer that
failed, whose entry is the last, with the updates of R505. -/
inductive Ended (p : Plan) (q : Inst π) : Result → Inst π → Prop
  | completed {es : List Entry} {r : Result} (hruns : Runs q.regs.pix p.micros es) (hfinal : p.final = .result r) :
      Ended p q r ((q.rested.after sink es).withRegs (lastingOf p.micros))
  | abandoned {ms₁ ms₂ : List Micro} {m : Micro} {es : List Entry} {f : Kind} {s : List Byte}
      (hsplit : p.micros = ms₁ ++ m :: ms₂) (hruns : Runs q.regs.pix ms₁ es) (hsends : m.sends f s) :
      Ended p q .busTransferFailure
        ((q.rested.after sink (es ++ [⟨.xfer f s, false⟩])).withRegs fun g => (lastingOf ms₁ g).abandon b)

/-- A completed action leaves its entry, its effect on the lines, and the buffer in use. -/
theorem perform_completed {a : Act} {q q' : Inst π} (h : Inst.perform sink a q = .completed q') :
    q'.rested = (q.rested.after sink [⟨a, true⟩]).withRegs (Micro.lasting · (.act a)) ∧ q'.regs.pix = q.regs.pix := by
  cases a with
  | xfer f s =>
    cases hhead : q.env.xfer.head with
    | false =>
      rw [perform_xfer_err sink f s q hhead] at h
      contradiction
    | true =>
      rw [perform_xfer_ok sink f s q hhead, Performed.completed.injEq] at h
      subst h
      exact ⟨rfl, rfl⟩
  | gpio l v =>
    obtain rfl := Performed.completed.inj h
    cases l <;> exact ⟨by simp [Inst.rested, Inst.withRegs, Inst.after, Inst.commit, xferCount_cons, Act.isXfer,
      Micro.lasting, Regs.effect, Regs.finish, Regs.record, Regs.advance], rfl⟩
  | pwm p d =>
    obtain rfl := Performed.completed.inj h
    exact ⟨by simp [Inst.rested, Inst.withRegs, Inst.after, Inst.commit, xferCount_cons, Act.isXfer,
      Micro.lasting, Regs.effect, Regs.finish, Regs.record, Regs.advance], rfl⟩
  | delay t =>
    obtain rfl := Performed.completed.inj h
    exact ⟨by simp [Inst.rested, Inst.withRegs, Inst.after, Inst.commit, xferCount_cons, Act.isXfer,
      Micro.lasting, Regs.effect, Regs.finish, Regs.record, Regs.advance], rfl⟩

/-- Only a transfer fails, and then its entry is recorded and nothing else written. -/
theorem perform_failed {a : Act} {q q' : Inst π} (h : Inst.perform sink a q = .failed q') :
    ∃ f s, a = .xfer f s ∧ q'.rested = q.rested.after sink [⟨.xfer f s, false⟩] := by
  cases a with
  | xfer f s =>
    cases hhead : q.env.xfer.head with
    | false =>
      rw [perform_xfer_err sink f s q hhead, Performed.failed.injEq] at h
      subst h
      exact ⟨f, s, rfl, rfl⟩
    | true =>
      rw [perform_xfer_ok sink f s q hhead] at h
      contradiction
  | gpio l v => contradiction
  | pwm p d => contradiction
  | delay t => contradiction

/-- How a sequence ends, up to the working registers. -/
theorem runMicros_ends (ms : List Micro) (fin : Final) (q : Inst π) {r : Result} {q' : Inst π}
    (h : runMicros sink b ms fin q = .done r q') : Ended sink b ⟨ms, fin⟩ q r q'.rested := by
  induction ms generalizing q with
  | nil =>
    cases fin with
    | result r' =>
      obtain ⟨rfl, rfl⟩ := RunResult.done.inj h
      have hnone : q.rested = (q.rested.after sink []).withRegs (lastingOf []) := by rw [Inst.after_nil]; rfl
      rw [hnone]
      exact .completed (p := ⟨[], .result r'⟩) .nil rfl
    | fault f => contradiction
  | cons m ms ih =>
    -- the element completed, leaving `es₀`, and the rest of the sequence runs from `q₁`
    have continued : ∀ (q₁ : Inst π) (es₀ : List Entry), runMicros sink b ms fin q₁ = .done r q' →
        q₁.rested = (q.rested.after sink es₀).withRegs m.lasting →
        (∀ ms₁ es, Runs q₁.regs.pix ms₁ es → Runs q.regs.pix (m :: ms₁) (es₀ ++ es)) →
        Ended sink b ⟨m :: ms, fin⟩ q r q'.rested := by
      intro q₁ es₀ hrest hq₁ hruns
      have hafter : ∀ es, q₁.rested.after sink es = (q.rested.after sink (es₀ ++ es)).withRegs m.lasting := fun es => by
        rw [hq₁, Inst.after_withRegs_lasting, Inst.after_append]
      have hended := ih q₁ hrest
      generalize q'.rested = q₂ at hended ⊢
      cases hended with
      | completed hes hfin =>
        rw [hafter]
        exact .completed (p := ⟨m :: ms, fin⟩) (hruns _ _ hes) hfin
      | abandoned hms hes hsends =>
        rw [hafter, ← List.append_assoc]
        exact .abandoned (p := ⟨m :: ms, fin⟩) (congrArg (m :: ·) hms) (hruns _ _ hes) hsends
    have stopped : ∀ (f : Kind) (s : List Byte) (q₁ : Inst π), m.sends f s →
        RunResult.done .busTransferFailure (q₁.withRegs (Regs.abandon b)) = .done r q' →
        q₁.rested = q.rested.after sink [⟨.xfer f s, false⟩] → Ended sink b ⟨m :: ms, fin⟩ q r q'.rested := by
      intro f s q₁ hsends hdone hq₁
      obtain ⟨rfl, rfl⟩ := RunResult.done.inj hdone
      have habandon : (q₁.withRegs (Regs.abandon b)).rested = q₁.rested.withRegs (Regs.abandon b) := rfl
      rw [habandon, hq₁]
      exact .abandoned (p := ⟨m :: ms, fin⟩) (ms₁ := []) rfl .nil hsends
    cases m with
    | set w =>
      refine continued (q.withRegs (·.write w)) [] h ?_ fun ms₁ es hes => .set (by rwa [← Regs.write_pix])
      rw [Inst.after_nil]
      cases w <;> rfl
    | act a =>
      simp only [runMicros] at h
      split at h
      · next q₁ hq₁ =>
        obtain ⟨hrest, hpix⟩ := perform_completed sink hq₁
        exact continued q₁ _ h hrest fun ms₁ es hes => .act a (by rwa [← hpix])
      · next q₁ hq₁ =>
        obtain ⟨f, s, rfl, hrest⟩ := perform_failed sink hq₁
        exact stopped f s q₁ (.inl rfl) h hrest
    | send a n =>
      simp only [runMicros] at h
      split at h
      · contradiction
      · next s hread =>
        split at h
        · next q₁ hq₁ =>
          obtain ⟨hrest, hpix⟩ := perform_completed sink hq₁
          exact continued q₁ _ h hrest fun ms₁ es hes => .send hread (by rwa [← hpix])
        · next q₁ hq₁ =>
          obtain ⟨f, s, hact, hrest⟩ := perform_failed sink hq₁
          obtain ⟨rfl, rfl⟩ := Act.xfer.inj hact
          exact stopped .data _ q₁ (.inr ⟨rfl, a, by rw [memRead_length hread]⟩) h hrest

/-- The inversion of a whole operation, from any unit. -/
theorem runPlan_ends {p : Plan} {q : Inst π} {r : Result} {q' : Inst π} (h : runPlan sink b p q = .done r q') :
    Ended sink b p q r q' := by
  unfold runPlan at h
  split at h
  · next r' q₁ hrun =>
    obtain ⟨rfl, rfl⟩ := RunResult.done.inj h
    have hended := runMicros_ends sink b _ _ (q.withRegs Regs.begin) hrun
    change Ended sink b p q r' q₁.rested
    generalize q₁.rested = q₂ at hended ⊢
    cases hended with
    | completed hruns hfinal => exact .completed hruns hfinal
    | abandoned hsplit hruns hsends => exact .abandoned hsplit hruns hsends
  · contradiction

end

end Sys2Proof.Machine

/-!
PROOFS. The plan of every instruction, as one function per unit of what the instruction may read: the unit's constants,
opcodes, configuration, registers and readiness answers. `exec_mono` and `exec_color` say that running it is all an
instruction does; the rules of the whole machine are then facts about plans.
-/

namespace Sys2Proof.Machine

/-! ## The plan of an instruction -/

/-- The bytes of a MONO wire command that writes no shadow (R260 to R282). -/
def monoCommand (op : MonoOps) : Instr → Option (List Byte)
  | .monoLowcol l => some [lowcolByte op l]
  | .monoHighcol h => some [highcolByte op h]
  | .monoMemmode a => some [op.memmode, a]
  | .monoColaddr a b => some [op.coladdr, a, b]
  | .monoPageaddr a b => some [op.pageaddr, a, b]
  | .monoStartline l => some [startlineByte op l]
  | .monoContrast a => some [op.contrast, a]
  | .monoChargepump a => some [op.chargepump, a]
  | .monoSegremap r => some [segremapByte op r]
  | .monoNormal => some [op.normal]
  | .monoInverse => some [op.inverse]
  | .monoMux a => some [op.mux, a]
  | .monoDcdc a => some [op.dcdc, a]
  | .monoIref a => some [op.iref, a]
  | .monoPagestart p => some [pagestartByte op p]
  | .monoComscan f => some [comscanByte op f]
  | .monoDispoffset a => some [op.dispoffset, a]
  | .monoClockdiv a => some [op.clockdiv, a]
  | .monoPrecharge a => some [op.precharge, a]
  | .monoCompins a => some [op.compins, a]
  | .monoVcomh a => some [op.vcomh, a]
  | _ => none

/-- The command byte and the parameters of a COLOR wire command that writes no shadow (R350 to R377). -/
def colorCommand (op : ColorOps) : Instr → Option (Byte × List Byte)
  | .colorSwreset => some (op.swreset, [])
  | .colorInvoff => some (op.invoff, [])
  | .colorInvon => some (op.invon, [])
  | .colorGamset a => some (op.gamset, [a])
  | .colorCaset a b => some (op.caset, be16 a ++ be16 b)
  | .colorRaset a b => some (op.raset, be16 a ++ be16 b)
  | .colorRamwr => some (op.ramwr, [])
  | .colorMadctl a => some (op.madctl, [a])
  | .colorColmod a => some (op.colmod, [a])
  | .colorRamctrl ps => some (op.ramctrl, ps)
  | .colorRgbctrl ps => some (op.rgbctrl, ps)
  | .colorPorctrl ps => some (op.porctrl, ps)
  | .colorGctrl a => some (op.gctrl, [a])
  | .colorDgmen a => some (op.dgmen, [a])
  | .colorVcoms a => some (op.vcoms, [a])
  | .colorLcmctrl a => some (op.lcmctrl, [a])
  | .colorVdvvrhen a => some (op.vdvvrhen, [a])
  | .colorVrhs a => some (op.vrhs, [a])
  | .colorVdvs a => some (op.vdvs, [a])
  | .colorFrctrl2 a => some (op.frctrl2, [a])
  | .colorPwctrl1 ps => some (op.pwctrl1, ps)
  | .colorCmd2en ps => some (op.cmd2en, ps)
  | .colorPvgamctrl ps => some (op.pvgamctrl, ps)
  | .colorNvgamctrl ps => some (op.nvgamctrl, ps)
  | _ => none

/-- The plan a MONO instruction runs; none for `get_capabilities`, which runs none, and for COLOR instructions. -/
def monoPlan (k : Consts) (op : MonoOps) (cfg : MonoCfg) (q : Regs) (e : Env) : Instr → Option Plan
  | .monoInit => some (if readyAll (monoHandles cfg) e then monoInitPlan k op cfg else initNotReady)
  | .monoWrite x y d pix => some (gate q (monoWritePlan op cfg x.toNat y.toNat (rectOf d) pix))
  | .monoSetContrast v => some (gate q (.ok [cmd [op.contrast, v]]))
  | .monoSetPixelFormat f => some (gate q (monoPixelFormatPlan op q.pf f))
  | .monoSetOrientation o => some (gate q (orientationPlan o))
  | .monoSuspend => some (gate q (.ok (monoDisplayOff op cfg)))
  | .monoBlankingOn => some (gate q (.ok (monoDisplayOff op cfg)))
  | .monoResume => some (gate q (.ok (monoDisplayOn op cfg)))
  | .monoBlankingOff => some (gate q (.ok (monoDisplayOn op cfg)))
  | .monoSetBrightness _ => some (.raise .unsupportedOperation)
  | .monoFill _ => some (.raise .unsupportedOperation)
  | .monoDispoff => some (.ok [cmd [op.dispoff], .set (.dispOn false)])
  | .monoDispon => some (.ok [cmd [op.dispon], .set (.dispOn true)])
  | .monoSoftReset => some (.ok (monoSoftResetXfer k))
  | .monoData px => some (.ok (if px = [] then [] else [dat px]))
  | i => (monoCommand op i).map fun bytes => .ok [cmd bytes]

/-- The handles a MONO instruction asks before its plan. -/
def monoAsks (cfg : MonoCfg) : Instr → List Handle
  | .monoInit => monoHandles cfg
  | _ => []

/-- The plan a COLOR instruction runs, as for MONO. -/
def colorPlan (k : Consts) (op : ColorOps) (cfg : ColorCfg) (q : Regs) (e : Env) : Instr → Option Plan
  | .colorInit => some (if readyAll (colorHandles cfg) e then colorInitPlan k op cfg else initNotReady)
  | .colorWrite x y d pix =>
    some (gate q (.after [.set (.pix pix)] (colorWritePlan op cfg x.toNat y.toNat (rectOf d))))
  | .colorSetContrast _ => some (.raise .unsupportedOperation)
  | .colorSetPixelFormat f => some (gate q (colorPixelFormatPlan cfg f))
  | .colorSetOrientation o => some (gate q (orientationPlan o))
  | .colorSuspend => some (gate q (.ok (colorSleepIn op)))
  | .colorResume => some (gate q (.ok (colorSleepOut k op)))
  | .colorBlankingOn => some (gate q (.ok (colorDisplayOff op)))
  | .colorBlankingOff => some (gate q (.ok (colorDisplayOn op)))
  | .colorSetBrightness b => some (gate q (brightnessPlan cfg (readyAll (pwmHandles cfg) e) b))
  | .colorFill c => some (gate q (fillPlan k op cfg c))
  | .colorDispoff => some (.ok (colorDisplayOff op))
  | .colorDispon => some (.ok (colorDisplayOn op))
  | .colorSlpin => some (.ok (colorSleepIn op))
  | .colorSlpout => some (.ok (colorSleepOut k op))
  | .colorData px => some (.ok (if px = [] then [] else [dat px]))
  | i => (colorCommand op i).map fun c => .ok (cmdp c.1 c.2)

/-- The handles a COLOR instruction asks before its plan. -/
def colorAsks (cfg : ColorCfg) (q : Regs) : Instr → List Handle
  | .colorInit => colorHandles cfg
  | .colorSetBrightness _ => if q.isReady then pwmHandles cfg else []
  | _ => []

/-- The plan of a MONO instruction in a state. -/
def State.monoPlan (s : State) (i : Instr) : Option Plan :=
  Machine.monoPlan s.k s.mop s.mcfg s.mono.regs s.mono.env i

/-- The plan of a COLOR instruction in a state. -/
def State.colorPlan (s : State) (i : Instr) : Option Plan :=
  Machine.colorPlan s.k s.cop s.ccfg s.color.regs s.color.env i

/-- A MONO operation by the run of its plan on the unit. -/
theorem runMono_of_done {b : Bool} {p : Plan} {s : State} {r : Result} {q : Inst MonoPanel}
    (h : runPlan s.monoSink b p s.mono = .done r q) :
    runMono b p s = .next { s with mono := q, answer := some (.result r) } := by
  unfold runMono
  rw [show runPlan (MonoPanel.receive s.k s.mcfg) b p s.mono = .done r q from h]

theorem runMono_of_fault {b : Bool} {p : Plan} {s : State} {f : Fault}
    (h : runPlan s.monoSink b p s.mono = .fault f) : runMono b p s = .fault f := by
  unfold runMono
  rw [show runPlan (MonoPanel.receive s.k s.mcfg) b p s.mono = .fault f from h]

/-- A COLOR operation by the run of its plan on the unit. -/
theorem runColor_of_done {b : Bool} {p : Plan} {s : State} {r : Result} {q : Inst ColorPanel}
    (h : runPlan s.colorSink b p s.color = .done r q) :
    runColor b p s = .next { s with color := q, answer := some (.result r) } := by
  unfold runColor
  rw [show runPlan (ColorPanel.receive s.ccfg) b p s.color = .done r q from h]

theorem runColor_of_fault {b : Bool} {p : Plan} {s : State} {f : Fault}
    (h : runPlan s.colorSink b p s.color = .fault f) : runColor b p s = .fault f := by
  unfold runColor
  rw [show runPlan (ColorPanel.receive s.ccfg) b p s.color = .fault f from h]

/-- A MONO instruction reports capabilities, or runs its plan. -/
theorem exec_mono {i : Instr} (s : State) (h : unitOf i = .mono) :
    (i = .monoGetCapabilities ∧
      exec i s = .next { s with answer := some (.capabilities (monoCapabilities s.mcfg s.mono.regs.pf)) }) ∨
    ∃ p, s.monoPlan i = some p ∧
      exec i s = runMono (decide (i = .monoInit)) p (s.askMono (monoAsks s.mcfg i)) := by
  cases i
  case monoGetCapabilities => exact .inl ⟨rfl, rfl⟩
  all_goals first
    | exact .inr ⟨_, rfl, rfl⟩
    | contradiction

/-- COLOR set_brightness as one plan behind the phase gate. -/
theorem execColorSetBrightness_eq (b : Byte) (s : State) :
    execColorSetBrightness b s =
      runColor false (gate s.color.regs (brightnessPlan s.ccfg (readyAll (pwmHandles s.ccfg) s.color.env) b))
        (s.askColor (if s.color.regs.isReady then pwmHandles s.ccfg else [])) := by
  unfold execColorSetBrightness gate
  split <;> rfl

/-- A COLOR instruction reports capabilities, or runs its plan. -/
theorem exec_color {i : Instr} (s : State) (h : unitOf i = .color) :
    (i = .colorGetCapabilities ∧
      exec i s = .next { s with answer := some (.capabilities (colorCapabilities s.ccfg)) }) ∨
    ∃ p, s.colorPlan i = some p ∧
      exec i s = runColor (decide (i = .colorInit)) p (s.askColor (colorAsks s.ccfg s.color.regs i)) := by
  cases i
  case colorGetCapabilities => exact .inl ⟨rfl, rfl⟩
  case colorSetBrightness b => exact .inr ⟨_, rfl, execColorSetBrightness_eq b s⟩
  all_goals first
    | exact .inr ⟨_, rfl, rfl⟩
    | contradiction

/-- What a MONO instruction that answers a next state did. -/
theorem exec_mono_next {i : Instr} {s t : State} (hu : unitOf i = .mono) (h : exec i s = .next t) :
    (i = .monoGetCapabilities ∧ t = { s with
      answer := some (.capabilities (monoCapabilities s.mcfg s.mono.regs.pf)) }) ∨
    ∃ p r q, s.monoPlan i = some p ∧
      Ended s.monoSink (decide (i = .monoInit)) p (s.askMono (monoAsks s.mcfg i)).mono r q ∧
      t = { s with mono := q, answer := some (.result r) } := by
  rcases exec_mono s hu with ⟨hi, he⟩ | ⟨p, hp, he⟩
  · exact .inl ⟨hi, Host.Outcome.next.inj (h.symm.trans he)⟩
  · rw [he] at h
    rcases runMono_cases _ p (s.askMono _) with ⟨f, hf⟩ | ⟨r, q, hrun, hnext⟩
    · rw [hf] at h
      contradiction
    · exact .inr ⟨p, r, q, hp, runPlan_ends _ _ hrun, Host.Outcome.next.inj (h.symm.trans hnext)⟩

/-- What a COLOR instruction that answers a next state did. -/
theorem exec_color_next {i : Instr} {s t : State} (hu : unitOf i = .color) (h : exec i s = .next t) :
    (i = .colorGetCapabilities ∧ t = { s with answer := some (.capabilities (colorCapabilities s.ccfg)) }) ∨
    ∃ p r q, s.colorPlan i = some p ∧
      Ended s.colorSink (decide (i = .colorInit)) p (s.askColor (colorAsks s.ccfg s.color.regs i)).color r q ∧
      t = { s with color := q, answer := some (.result r) } := by
  rcases exec_color s hu with ⟨hi, he⟩ | ⟨p, hp, he⟩
  · exact .inl ⟨hi, Host.Outcome.next.inj (h.symm.trans he)⟩
  · rw [he] at h
    rcases runColor_cases _ p (s.askColor _) with ⟨f, hf⟩ | ⟨r, q, hrun, hnext⟩
    · rw [hf] at h
      contradiction
    · exact .inr ⟨p, r, q, hp, runPlan_ends _ _ hrun, Host.Outcome.next.inj (h.symm.trans hnext)⟩

/-! ## Frames of the whole machine -/

/-- What no instruction writes: what the board was built with, the pending calls, and the other unit. -/
theorem exec_frame {i : Instr} {s t : State} (h : exec i s = .next t) :
    (t.k = s.k ∧ t.mop = s.mop ∧ t.cop = s.cop ∧ t.mcfg = s.mcfg ∧ t.ccfg = s.ccfg ∧ t.calls = s.calls) ∧
    (unitOf i = .mono → t.color = s.color) ∧ (unitOf i = .color → t.mono = s.mono) := by
  cases hu : unitOf i with
  | mono =>
    rcases exec_mono_next hu h with ⟨-, rfl⟩ | ⟨p, r, q, -, -, rfl⟩ <;> simp
  | color =>
    rcases exec_color_next hu h with ⟨-, rfl⟩ | ⟨p, r, q, -, -, rfl⟩ <;> simp

/-- A step does nothing, or runs an instruction on the state without its oldest call. -/
theorem step_next {s t : State} (h : step s = .next t) :
    (s.calls = [] ∧ t = s) ∨ ∃ i, exec i s.taken = .next t := by
  unfold step at h
  split at h
  · next hcalls => exact .inl ⟨hcalls, (Host.Outcome.next.inj h).symm⟩
  · split at h
    · contradiction
    · next i _ => exact .inr ⟨i, h⟩

/-- Settles O13: neither taking a call nor an instruction (`exec_frame`) writes the configuration. -/
theorem configurationNeverChanges : Obligations.ConfigurationNeverChanges := by
  intro s t h
  rcases step_next h with ⟨hcalls, rfl⟩ | ⟨i, hexec⟩
  · simp [hcalls]
  · exact (exec_frame hexec).1

/-- Settles O14. -/
theorem otherInstanceUntouched : Obligations.OtherInstanceUntouched :=
  fun _ _ _ h => (exec_frame h).2

/-- Settles O6: the three branches of `step`. -/
theorem stepRunsOldestCall : Obligations.StepRunsOldestCall := by
  refine ⟨fun s r rest i hcalls hdecode => ?_, fun s r rest e hcalls hdecode => ?_, fun s hcalls => ?_⟩
  · simp only [step, State.taken, hcalls, hdecode, List.drop_one, List.tail_cons]
  · simp only [step, hcalls, hdecode]
  · simp only [step, hcalls]

/-! ## Noninterference of the units -/

/-- A MONO operation reads nothing but its own unit and what it was built with. -/
theorem runMono_congr {b : Bool} {p : Plan} {s s' t : State} (hmono : s.mono = s'.mono) (hk : s.k = s'.k)
    (hcfg : s.mcfg = s'.mcfg) (h : runMono b p s = .next t) :
    ∃ t', runMono b p s' = .next t' ∧ t'.mono = t.mono ∧ t'.answer = t.answer := by
  rcases runMono_cases b p s with ⟨f, hfault⟩ | ⟨r, q, hrun, hnext⟩
  · rw [hfault] at h
    contradiction
  · obtain rfl := Host.Outcome.next.inj (hnext.symm.trans h)
    rw [hmono, hk, hcfg] at hrun
    exact ⟨_, runMono_of_done hrun, rfl, rfl⟩

/-- A COLOR operation, as for MONO. -/
theorem runColor_congr {b : Bool} {p : Plan} {s s' t : State} (hcolor : s.color = s'.color)
    (hcfg : s.ccfg = s'.ccfg) (h : runColor b p s = .next t) :
    ∃ t', runColor b p s' = .next t' ∧ t'.color = t.color ∧ t'.answer = t.answer := by
  rcases runColor_cases b p s with ⟨f, hfault⟩ | ⟨r, q, hrun, hnext⟩
  · rw [hfault] at h
    contradiction
  · obtain rfl := Host.Outcome.next.inj (hnext.symm.trans h)
    rw [hcolor, hcfg] at hrun
    exact ⟨_, runColor_of_done hrun, rfl, rfl⟩

/-- Settles O15: the two states give an instruction the same plan, and `runMono_congr` and `runColor_congr` run it. -/
theorem unitsDoNotInterfere : Obligations.UnitsDoNotInterfere := by
  refine ⟨fun i s s' t hu hmono hk hop hcfg h => ?_, fun i s s' t hu hcolor hk hop hcfg h => ?_⟩
  · rcases exec_mono s hu with ⟨rfl, he⟩ | ⟨p, hp, he⟩
    · obtain rfl := Host.Outcome.next.inj (he.symm.trans h)
      exact ⟨_, rfl, hmono.symm, by simp only [hmono, hcfg]⟩
    · have hp' : s'.monoPlan i = some p := by rw [← hp]; simp only [State.monoPlan, hmono, hk, hop, hcfg]
      rcases exec_mono s' hu with ⟨rfl, -⟩ | ⟨p', hp'', he'⟩
      · contradiction
      · obtain rfl := Option.some.inj (hp'.symm.trans hp'')
        rw [he] at h
        rw [he', ← hcfg]
        exact runMono_congr (s := s.askMono _) (by simp only [State.askMono, hmono]) hk hcfg h
  · rcases exec_color s hu with ⟨rfl, he⟩ | ⟨p, hp, he⟩
    · obtain rfl := Host.Outcome.next.inj (he.symm.trans h)
      exact ⟨_, rfl, hcolor.symm, by simp only [hcfg]⟩
    · have hp' : s'.colorPlan i = some p := by rw [← hp]; simp only [State.colorPlan, hcolor, hk, hop, hcfg]
      rcases exec_color s' hu with ⟨rfl, -⟩ | ⟨p', hp'', he'⟩
      · contradiction
      · obtain rfl := Option.some.inj (hp'.symm.trans hp'')
        rw [he] at h
        rw [he', ← hcfg, ← hcolor]
        exact runColor_congr (s := s.askColor _) (by simp only [State.askColor, hcolor]) hcfg h

end Sys2Proof.Machine

/-!
PROOFS. What the plans are made of: which registers the elements of a unit's plans write, which lines they drive, that
their transfers carry bytes, and with which results the plans end.
-/

namespace Sys2Proof.Machine

/-! ## Kinds of elements -/

/-- An element that writes a lifecycle register (R36, R37). -/
def Micro.lifecycle : Micro → Bool
  | .set (.phase _) | .set (.indeterminate _) => true
  | _ => false

/-- An element that writes a working register only (R32, R100). -/
def Micro.working : Micro → Bool
  | .set (.n _) | .set (.r _) | .set (.yf _) | .set (.pix _) => true
  | _ => false

/-- An element that uses a pixel buffer: a transfer of some of its bytes, or its taking into use. -/
def Micro.reads (m : Micro) : Prop := (∃ a n, m = .send a n ∧ n ≠ 0) ∨ ∃ bytes, m = .set (.pix bytes)

/-- An instruction that reads a pixel buffer. -/
def streams : Instr → Bool
  | .monoWrite .. | .colorWrite .. | .colorFill _ => true
  | _ => false

/-- An element of a MONO plan that is no lifecycle write and reads no buffer: its transfers carry bytes, it drives no backlight and writes no
COLOR register, and a format it writes is a polarity. -/
def Micro.plainMono : Micro → Bool
  | .act (.xfer _ s) => !s.isEmpty
  | .act (.gpio l _) => l != .backlight
  | .act (.pwm _ _) => false
  | .act (.delay _) => true
  | .send _ _ => false
  | .set (.pf f) => isMonoFormat f
  | .set (.dispOn _) | .set (.n _) | .set (.r _) | .set (.yf _) => true
  | .set (.phase _) | .set (.indeterminate _) | .set (.asleep _) | .set (.backlightLevel _) | .set (.pix _) => false

/-- An element of a COLOR plan that is neither a lifecycle write nor the write of the backlight level and reads no buffer:
its transfers carry bytes, it drives no supply line, a duty it sets is within its period, and it writes no format. -/
def Micro.plainColor : Micro → Bool
  | .act (.xfer _ s) => !s.isEmpty
  | .act (.gpio l _) => l != .supply
  | .act (.pwm p d) => d ≤ p
  | .act (.delay _) => true
  | .send _ _ => false
  | .set (.dispOn _) | .set (.asleep _) | .set (.n _) | .set (.r _) | .set (.yf _) => true
  | .set (.phase _) | .set (.indeterminate _) | .set (.pf _) | .set (.backlightLevel _) | .set (.pix _) => false

/-- The phase gate lets a plan through, or ends it before any action. -/
theorem gate_cases (q : Regs) (p : Plan) :
    gate q p = p ∧ q.phase = .ready ∨ gate q p = .raise .deviceNotReady ∧ q.phase ≠ .ready := by
  by_cases h : q.phase = .ready
  · exact .inl ⟨gate_ready p h, h⟩
  · exact .inr ⟨gate_not_ready p h, h⟩

/-- What holds of the elements of a plan holds of them behind the phase gate. -/
theorem gate_micros {P : Micro → Prop} (q : Regs) {p : Plan} (h : ∀ m ∈ p.micros, P m) :
    ∀ m ∈ (gate q p).micros, P m := by
  rcases gate_cases q p with ⟨hg, -⟩ | ⟨hg, -⟩ <;> rw [hg]
  · exact h
  · simp [Plan.raise]

/-! ## The elements of MONO plans -/

theorem monoResetStep_plain (k : Consts) (cfg : MonoCfg) : ∀ m ∈ monoResetStep k cfg, m.plainMono = true := by
  unfold monoResetStep monoSwReset monoSoftResetXfer
  split
  · simp [monoHwReset, gpio, delay, Micro.plainMono]
  · split <;> simp_all [cmd, delay, Micro.plainMono]

theorem monoConfigure_plain (k : Consts) (op : MonoOps) (cfg : MonoCfg) (f : Format) :
    ∀ m ∈ monoConfigure k op cfg f, m.plainMono = true := by
  unfold monoConfigure chargePump
  cases cfg.chip <;> cases cfg.internalIref <;> simp [cmd, Micro.plainMono]

theorem monoDisplayOn_plain (op : MonoOps) (cfg : MonoCfg) : ∀ m ∈ monoDisplayOn op cfg, m.plainMono = true := by
  unfold monoDisplayOn supplyOn
  split <;> simp [cmd, gpio, delay, Micro.plainMono]

theorem monoDisplayOff_plain (op : MonoOps) (cfg : MonoCfg) : ∀ m ∈ monoDisplayOff op cfg, m.plainMono = true := by
  unfold monoDisplayOff supplyOff
  split <;> simp [cmd, gpio, Micro.plainMono]

theorem initialPf_mono (cfg : MonoCfg) : isMonoFormat (initialPf cfg) = true := by
  unfold initialPf
  split <;> rfl

theorem monoInitPlan_plain (k : Consts) (op : MonoOps) (cfg : MonoCfg) :
    ∀ m ∈ (monoInitPlan k op cfg).micros, m.plainMono = true ∨ m.lifecycle = true := by
  simp only [monoInitPlan, Plan.ok, List.forall_mem_append]
  refine ⟨⟨⟨⟨?format, ?reset⟩, ?configure⟩, ?display⟩, ?done⟩
  case format => simp [Micro.plainMono, initialPf_mono]
  case reset => exact fun m hm => .inl (monoResetStep_plain _ _ m hm)
  case configure => exact fun m hm => .inl (monoConfigure_plain _ _ _ _ m hm)
  case display => exact fun m hm => .inl (monoDisplayOn_plain _ _ m hm)
  case done => simp [initDone, Micro.lifecycle]

/-- The quirk path: each page's number, its triple, and `width` bytes inside the declared length. -/
theorem monoQuirkPages_micros (op : MonoOps) (c : Byte) (y width len n left : Nat) :
    ∀ m ∈ (monoQuirkPages op c y width len n left).micros,
      (∃ j, m = .set (.n j)) ∨ (∃ j, m = cmd (pageTriple op c j)) ∨ ∃ a, m = .send a width ∧ a + width ≤ len := by
  induction left generalizing n with
  | zero => simp [monoQuirkPages, Plan.ok]
  | succ left ih =>
    unfold monoQuirkPages
    split
    · simp
    · next hfits =>
      simp only [Plan.after, List.forall_mem_append, List.forall_mem_cons]
      refine ⟨⟨.inl ⟨_, rfl⟩, .inr (.inl ⟨_, rfl⟩), .inr (.inr ⟨_, rfl, ?_⟩), by simp⟩, ih (n + 1)⟩
      rw [Nat.succ_mul] at hfits
      omega

theorem monoQuirkPages_final (op : MonoOps) (c : Byte) (y width len n left : Nat) :
    (monoQuirkPages op c y width len n left).final = .result .ok ∨
      (monoQuirkPages op c y width len n left).final = .result .geometryViolation := by
  induction left generalizing n with
  | zero => exact .inl rfl
  | succ left ih =>
    unfold monoQuirkPages
    split
    · exact .inr rfl
    · exact ih (n + 1)

/-- A MONO write that passes its checks: the buffer, then its chip's path, over a width and a length that are not 0. -/
theorem monoWritePlan_cases (op : MonoOps) (cfg : MonoCfg) (x y : Nat) (d : Rect) (pix : List Byte) :
    monoWritePlan op cfg x y d pix = .raise .geometryViolation ∨
    monoWritePlan op cfg x y d pix = .after [.set (.pix pix)] (monoWritePath op cfg x y d (effectiveLength d)) ∧
      d.width ≠ 0 ∧ effectiveLength d ≠ 0 := by
  unfold monoWritePlan
  split
  · exact .inl rfl
  · next haccepted =>
    split
    · exact .inl rfl
    · next hlen =>
      refine .inr ⟨rfl, fun hw => haccepted ?_, hlen⟩
      simp [monoWriteRejected, hw]

/-- The path of a MONO write: command transfers, page numbers, and reads inside the effective length. -/
theorem monoWritePath_micros (op : MonoOps) (cfg : MonoCfg) (x y : Nat) (d : Rect) (len : Nat) (hw : d.width ≠ 0)
    (hlen : len ≠ 0) : ∀ m ∈ (monoWritePath op cfg x y d len).micros,
      (∃ j, m = .set (.n j)) ∨ (∃ b s, m = cmd (b :: s)) ∨ ∃ a n, m = .send a n ∧ n ≠ 0 ∧ a + n ≤ len := by
  have hquirk : ∀ m ∈ (monoWriteQuirk op cfg x y d len).micros,
      (∃ j, m = .set (.n j)) ∨ (∃ b s, m = cmd (b :: s)) ∨ ∃ a n, m = .send a n ∧ n ≠ 0 ∧ a + n ≤ len := by
    intro m hm
    rcases monoQuirkPages_micros _ _ _ _ _ _ _ m hm with ⟨j, rfl⟩ | ⟨j, rfl⟩ | ⟨a, rfl, ha⟩
    · exact .inl ⟨j, rfl⟩
    · exact .inr (.inl ⟨_, _, rfl⟩)
    · exact .inr (.inr ⟨a, _, rfl, hw, ha⟩)
  have hdefault : ∀ m ∈ (monoWriteDefault op cfg x y d len).micros,
      (∃ j, m = .set (.n j)) ∨ (∃ b s, m = cmd (b :: s)) ∨ ∃ a n, m = .send a n ∧ n ≠ 0 ∧ a + n ≤ len := by
    simp only [monoWriteDefault, Plan.ok, List.forall_mem_cons]
    exact ⟨.inr (.inl ⟨_, _, rfl⟩), .inr (.inr ⟨_, _, rfl, hlen, by omega⟩), by simp⟩
  unfold monoWritePath
  split
  · exact hquirk
  · exact hdefault
  · exact hdefault

theorem monoWritePlan_plain (op : MonoOps) (cfg : MonoCfg) (x y : Nat) (d : Rect) (pix : List Byte) :
    ∀ m ∈ (monoWritePlan op cfg x y d pix).micros, m.plainMono = true ∨ m.reads := by
  rcases monoWritePlan_cases op cfg x y d pix with h | ⟨h, hw, hlen⟩ <;> rw [h]
  · simp [Plan.raise]
  · simp only [Plan.after, List.forall_mem_append, List.forall_mem_cons]
    refine ⟨⟨.inr (.inr ⟨_, rfl⟩), by simp⟩, fun m hm => ?_⟩
    rcases monoWritePath_micros _ _ _ _ _ _ hw hlen m hm with ⟨j, rfl⟩ | ⟨b, s, rfl⟩ | ⟨a, n, rfl, hn, -⟩
    · exact .inl rfl
    · exact .inl rfl
    · exact .inr (.inl ⟨a, n, rfl, hn⟩)

/-- A MONO write ends in Ok or GeometryViolation, in the second without an action but on an SH1106. -/
theorem monoWritePlan_final (op : MonoOps) (cfg : MonoCfg) (x y : Nat) (d : Rect) (pix : List Byte) :
    (monoWritePlan op cfg x y d pix).final = .result .ok ∨
    (monoWritePlan op cfg x y d pix).final = .result .geometryViolation ∧
      (monoWritePlan op cfg x y d pix = .raise .geometryViolation ∨ cfg.chip = .sh1106) := by
  rcases monoWritePlan_cases op cfg x y d pix with h | ⟨h, -, -⟩ <;> rw [h]
  · exact .inr ⟨rfl, .inl rfl⟩
  · cases hchip : cfg.chip with
    | sh1106 =>
      have hpath : monoWritePath op cfg x y d (effectiveLength d) = monoWriteQuirk op cfg x y d (effectiveLength d) := by
        simp only [monoWritePath, hchip]
      rw [hpath]
      exact (monoQuirkPages_final _ _ _ _ _ _ _).imp_right fun hf => ⟨hf, .inr rfl⟩
    | ssd1306 => exact .inl (by simp only [Plan.after, monoWritePath, hchip]; rfl)
    | ssd1309 => exact .inl (by simp only [Plan.after, monoWritePath, hchip]; rfl)

theorem monoCommand_nonempty {op : MonoOps} {i : Instr} {bytes : List Byte} (h : monoCommand op i = some bytes) :
    bytes ≠ [] := by
  rintro rfl
  cases i <;> first | exact absurd (Option.some.inj h) (List.cons_ne_nil _ _) | contradiction

/-- The elements of a MONO plan are plain, but for the lifecycle writes of init and the reads of a write. -/
theorem monoPlan_plain {k : Consts} {op : MonoOps} {cfg : MonoCfg} {q : Regs} {e : Env} {i : Instr} {p : Plan}
    (h : monoPlan k op cfg q e i = some p) :
    ∀ m ∈ p.micros, m.plainMono = true ∨ (i = .monoInit ∧ m.lifecycle = true) ∨ (streams i = true ∧ m.reads) := by
  unfold monoPlan at h
  split at h
  case h_1 =>
    obtain rfl := Option.some.inj h
    intro m hm
    split at hm
    · exact (monoInitPlan_plain _ _ _ m hm).imp_right fun hl => .inl ⟨rfl, hl⟩
    · simp only [initNotReady, List.mem_singleton] at hm
      exact .inr (.inl ⟨rfl, hm ▸ rfl⟩)
  case h_16 =>
    obtain ⟨bytes, hbytes, rfl⟩ := Option.map_eq_some_iff.1 h
    have hne := monoCommand_nonempty hbytes
    simp [Plan.ok, cmd, Micro.plainMono, hne]
  case h_2 =>
    obtain rfl := Option.some.inj h
    exact fun m hm => (gate_micros _ (monoWritePlan_plain _ _ _ _ _ _) m hm).imp_right fun hr => .inr ⟨rfl, hr⟩
  all_goals
    obtain rfl := Option.some.inj h
    refine fun m hm => .inl ?_
    revert m hm
  case h_3 => exact gate_micros _ (by simp [Plan.ok, cmd, Micro.plainMono])
  case h_4 f =>
    refine gate_micros _ ?_
    unfold monoPixelFormatPlan
    split
    · simp [Plan.raise]
    · split <;> simp_all [Plan.ok, cmd, Micro.plainMono]
  case h_5 => exact gate_micros _ (by unfold orientationPlan; split <;> simp [Plan.ok, Plan.raise])
  case h_6 => exact gate_micros _ (monoDisplayOff_plain _ _)
  case h_7 => exact gate_micros _ (monoDisplayOff_plain _ _)
  case h_8 => exact gate_micros _ (monoDisplayOn_plain _ _)
  case h_9 => exact gate_micros _ (monoDisplayOn_plain _ _)
  case h_10 => simp [Plan.raise]
  case h_11 => simp [Plan.raise]
  case h_12 => simp [Plan.ok, cmd, Micro.plainMono]
  case h_13 => simp [Plan.ok, cmd, Micro.plainMono]
  case h_14 => unfold monoSoftResetXfer; split <;> simp_all [Plan.ok, cmd, Micro.plainMono]
  case h_15 => split <;> simp_all [Plan.ok, dat, Micro.plainMono]

/-- Display, orientation and format plans of either unit: they end in Ok, or before any action. -/
def Plan.endsEarly (p : Plan) : Prop :=
  p.final = .result .ok ∨ p = .raise .deviceNotReady ∨ p = .raise .unsupportedOperation ∨
    p.final = .result .geometryViolation ∧ ∀ m ∈ p.micros, m.working = true

theorem Plan.ok_endsEarly (ms : List Micro) : (Plan.ok ms).endsEarly := .inl rfl

theorem gate_endsEarly (q : Regs) {p : Plan} (h : p.endsEarly) : (gate q p).endsEarly := by
  rcases gate_cases q p with ⟨hg, -⟩ | ⟨hg, -⟩ <;> rw [hg]
  · exact h
  · exact .inr (.inl rfl)

theorem orientationPlan_endsEarly (o : Orientation) : (orientationPlan o).endsEarly := by
  unfold orientationPlan
  split
  · exact .inl rfl
  · exact .inr (.inr (.inl rfl))

theorem monoPixelFormatPlan_endsEarly (op : MonoOps) (pf f : Format) : (monoPixelFormatPlan op pf f).endsEarly := by
  unfold monoPixelFormatPlan
  split
  · exact .inr (.inr (.inl rfl))
  · split <;> exact .inl rfl

/-- A MONO plan ends in Ok or before any action, but for an init that is not ready and the page guard of the SH1106. -/
theorem monoPlan_final {k : Consts} {op : MonoOps} {cfg : MonoCfg} {q : Regs} {e : Env} {i : Instr} {p : Plan}
    (h : monoPlan k op cfg q e i = some p) :
    p.endsEarly ∨ (i = .monoInit ∧ p = initNotReady) ∨
      p.final = .result .geometryViolation ∧ (∃ x y d pix, i = .monoWrite x y d pix) ∧ cfg.chip = .sh1106 := by
  unfold monoPlan at h
  split at h
  case h_16 =>
    obtain ⟨bytes, -, rfl⟩ := Option.map_eq_some_iff.1 h
    exact .inl (.inl rfl)
  all_goals obtain rfl := Option.some.inj h
  case h_1 =>
    split
    · exact .inl (.inl rfl)
    · exact .inr (.inl ⟨rfl, rfl⟩)
  case h_2 x y d pix =>
    rcases gate_cases q (monoWritePlan op cfg x.toNat y.toNat (rectOf d) pix) with ⟨hg, -⟩ | ⟨hg, -⟩ <;> rw [hg]
    · rcases monoWritePlan_final op cfg x.toNat y.toNat (rectOf d) pix with hok | ⟨hgeo, hraise | hchip⟩
      · exact .inl (.inl hok)
      · rw [hraise]
        exact .inl (.inr (.inr (.inr ⟨rfl, by simp [Plan.raise]⟩)))
      · exact .inr (.inr ⟨hgeo, ⟨x, y, d, pix, rfl⟩, hchip⟩)
    · exact .inl (.inr (.inl rfl))
  all_goals refine .inl ?_
  case h_4 => exact gate_endsEarly _ (monoPixelFormatPlan_endsEarly _ _ _)
  case h_5 => exact gate_endsEarly _ (orientationPlan_endsEarly _)
  case h_10 => exact .inr (.inr (.inl rfl))
  case h_11 => exact .inr (.inr (.inl rfl))
  case h_12 => exact Plan.ok_endsEarly _
  case h_13 => exact Plan.ok_endsEarly _
  case h_14 => exact Plan.ok_endsEarly _
  case h_15 => exact Plan.ok_endsEarly _
  all_goals exact gate_endsEarly _ (Plan.ok_endsEarly _)

/-! ## The elements of COLOR plans -/

theorem cmdp_plain (op : Byte) (ps : List Byte) : ∀ m ∈ cmdp op ps, m.plainColor = true := by
  unfold cmdp
  split <;> simp_all [cmd, dat, Micro.plainColor]

theorem colorResetStep_plain (k : Consts) (op : ColorOps) (cfg : ColorCfg) :
    ∀ m ∈ colorResetStep k op cfg, m.plainColor = true := by
  unfold colorResetStep
  split
  · simp [gpio, delay, Micro.plainColor]
  · simp only [List.forall_mem_append]
    exact ⟨cmdp_plain _ _, by simp [delay, Micro.plainColor]⟩

theorem vrhVdvStep_plain (k : Consts) (op : ColorOps) (v : Option (Byte × Byte)) :
    ∀ m ∈ vrhVdvStep k op v, m.plainColor = true := by
  unfold vrhVdvStep
  split
  · simp
  · simp only [List.forall_mem_append]
    exact ⟨⟨cmdp_plain _ _, cmdp_plain _ _⟩, cmdp_plain _ _⟩

theorem colorConfigure_plain (k : Consts) (op : ColorOps) (cfg : ColorCfg) :
    ∀ m ∈ colorConfigure k op cfg, m.plainColor = true := by
  simp only [colorConfigure, List.forall_mem_append]
  and_intros <;> first | exact cmdp_plain _ _ | exact vrhVdvStep_plain _ _ _

theorem colorDisplayOff_plain (op : ColorOps) : ∀ m ∈ colorDisplayOff op, m.plainColor = true := by
  simp only [colorDisplayOff, List.forall_mem_append]
  exact ⟨cmdp_plain _ _, by simp [Micro.plainColor]⟩

theorem colorDisplayOn_plain (op : ColorOps) : ∀ m ∈ colorDisplayOn op, m.plainColor = true := by
  simp only [colorDisplayOn, List.forall_mem_append]
  exact ⟨cmdp_plain _ _, by simp [Micro.plainColor]⟩

theorem colorSleepOut_plain (k : Consts) (op : ColorOps) : ∀ m ∈ colorSleepOut k op, m.plainColor = true := by
  simp only [colorSleepOut, List.forall_mem_append]
  exact ⟨cmdp_plain _ _, by simp [delay, Micro.plainColor]⟩

theorem colorSleepIn_plain (op : ColorOps) : ∀ m ∈ colorSleepIn op, m.plainColor = true := by
  simp only [colorSleepIn, List.forall_mem_append]
  exact ⟨cmdp_plain _ _, by simp [Micro.plainColor]⟩

theorem colorInitPlan_plain (k : Consts) (op : ColorOps) (cfg : ColorCfg) :
    ∀ m ∈ (colorInitPlan k op cfg).micros, m.plainColor = true ∨ m.lifecycle = true := by
  simp only [colorInitPlan, colorWake, Plan.ok, List.forall_mem_append]
  refine ⟨⟨⟨⟨?reset, ?off⟩, ?configure⟩, ?sleepOut, ?on⟩, ?done⟩
  case reset => exact fun m hm => .inl (colorResetStep_plain _ _ _ m hm)
  case off => exact fun m hm => .inl (colorDisplayOff_plain _ m hm)
  case configure => exact fun m hm => .inl (colorConfigure_plain _ _ _ m hm)
  case sleepOut => exact fun m hm => .inl (colorSleepOut_plain _ _ m hm)
  case on => exact fun m hm => .inl (colorDisplayOn_plain _ m hm)
  case done => simp [initDone, Micro.lifecycle]

theorem colorWindow_plain (op : ColorOps) (cfg : ColorCfg) (x y : Nat) (d : Rect) :
    ∀ m ∈ colorWindow op cfg x y d, m.plainColor = true := by
  simp only [colorWindow, List.forall_mem_append]
  exact ⟨⟨cmdp_plain _ _, cmdp_plain _ _⟩, by simp [cmd, Micro.plainColor]⟩

theorem colorRows_plain (ps width pitch r left : Nat) (h : width * ps ≠ 0) :
    ∀ m ∈ colorRows ps width pitch r left, m.plainColor = true ∨ m.reads := by
  induction left generalizing r with
  | zero => simp [colorRows]
  | succ left ih =>
    simp only [colorRows, List.forall_mem_append, List.forall_mem_cons]
    exact ⟨⟨.inl rfl, .inr (.inl ⟨_, _, rfl, h⟩), by simp⟩, ih (r + 1)⟩

theorem colorFormat_bytes_pos (f : ColorFormat) : 0 < f.bytes := by cases f <;> decide

/-- A COLOR write is rejected, or it has a non-empty rectangle and then faults or sends its window and its stream. -/
theorem colorWritePlan_cases (op : ColorOps) (cfg : ColorCfg) (x y : Nat) (d : Rect) :
    (colorWritePlan op cfg x y d = .raise .geometryViolation ∧ (d.pitch < d.width ∨ d.width = 0 ∨ d.height = 0)) ∨
    (d.width ≤ d.pitch ∧ d.width ≠ 0 ∧ d.height ≠ 0 ∧
      (colorWritePlan op cfg x y d = ⟨[], .fault .hostBufferOverrun⟩ ∧ d.bufSize < bytesNeeded cfg.pixelFormat.bytes d ∨
       colorWritePlan op cfg x y d = .ok (colorWindow op cfg x y d ++ colorStream cfg.pixelFormat.bytes d) ∧
         bytesNeeded cfg.pixelFormat.bytes d ≤ d.bufSize)) := by
  unfold colorWritePlan
  split
  · next hrej => exact .inl ⟨rfl, by simpa [colorWriteRejected] using hrej⟩
  · next hacc =>
    obtain ⟨hp, hw, hh⟩ : d.width ≤ d.pitch ∧ d.width ≠ 0 ∧ d.height ≠ 0 := by
      simpa [colorWriteRejected] using hacc
    refine .inr ⟨hp, hw, hh, ?_⟩
    split
    · next hs => exact .inl ⟨rfl, hs⟩
    · next hs => exact .inr ⟨rfl, Nat.not_lt.1 hs⟩

theorem colorStream_plain (ps : Nat) (d : Rect) (hps : ps ≠ 0) (hw : d.width ≠ 0) (hh : d.height ≠ 0) :
    ∀ m ∈ colorStream ps d, m.plainColor = true ∨ m.reads := by
  unfold colorStream
  split
  · simp only [colorContiguous, List.forall_mem_singleton]
    exact .inr (.inl ⟨_, _, rfl, Nat.mul_ne_zero (Nat.mul_ne_zero hw hh) hps⟩)
  · exact colorRows_plain _ _ _ _ _ (Nat.mul_ne_zero hw hps)

theorem colorWritePlan_plain (op : ColorOps) (cfg : ColorCfg) (x y : Nat) (d : Rect) :
    ∀ m ∈ (colorWritePlan op cfg x y d).micros, m.plainColor = true ∨ m.reads := by
  rcases colorWritePlan_cases op cfg x y d with ⟨h, -⟩ | ⟨-, hw, hh, ⟨h, -⟩ | ⟨h, -⟩⟩ <;> rw [h]
  · simp [Plan.raise]
  · simp
  · simp only [Plan.ok, List.forall_mem_append]
    exact ⟨fun m hm => .inl (colorWindow_plain _ _ _ _ _ m hm), colorStream_plain _ _ (colorFormat_bytes_pos _).ne' hw hh⟩

theorem Plan.andThen_cases (p q : Plan) :
    p.andThen q = ⟨p.micros ++ q.micros, q.final⟩ ∧ p.final = .result .ok ∨ p.andThen q = p ∧ p.final ≠ .result .ok := by
  unfold Plan.andThen
  split
  · next h => exact .inl ⟨rfl, h⟩
  · next h => exact .inr ⟨rfl, h⟩

theorem fillLoop_plain (op : ColorOps) (cfg : ColorCfg) (rows fuel yf : Nat) :
    ∀ m ∈ (fillLoop op cfg rows fuel yf).micros, m.plainColor = true ∨ m.reads := by
  induction fuel generalizing yf with
  | zero => simp [fillLoop, Plan.ok]
  | succ fuel ih =>
    unfold fillLoop
    split
    · simp [Plan.ok]
    · simp only [Plan.after, List.forall_mem_append, List.forall_mem_cons]
      refine ⟨⟨.inl rfl, by simp⟩, ?_⟩
      rcases Plan.andThen_cases (colorWritePlan op cfg 0 yf (fillRect cfg rows (min rows (cfg.height.toNat - yf))))
        (fillLoop op cfg rows fuel (yf + min rows (cfg.height.toNat - yf))) with ⟨h, -⟩ | ⟨h, -⟩ <;> rw [h]
      · exact List.forall_mem_append.2 ⟨colorWritePlan_plain _ _ _ _ _, ih _⟩
      · exact colorWritePlan_plain _ _ _ _ _

theorem fillPlan_plain (k : Consts) (op : ColorOps) (cfg : ColorCfg) (c : List Byte) :
    ∀ m ∈ (fillPlan k op cfg c).micros, m.plainColor = true ∨ m.reads := by
  unfold fillPlan
  split
  · simp [Plan.raise]
  · simp only [Plan.after, List.forall_mem_append, List.forall_mem_cons]
    exact ⟨⟨.inr (.inr ⟨_, rfl⟩), by simp⟩, fillLoop_plain _ _ _ _ _⟩

theorem duty_le (period : Nat) (b : Byte) : duty period b ≤ period := by
  unfold duty
  have hb : b.toNat ≤ 255 := by have := b.isLt; omega
  calc period * b.toNat / 255 ≤ period * 255 / 255 := Nat.div_le_div_right (Nat.mul_le_mul_left _ hb)
    _ = period := by omega

theorem brightnessPlan_plain (cfg : ColorCfg) (r : Bool) (b : Byte) :
    ∀ m ∈ (brightnessPlan cfg r b).micros, m.plainColor = true ∨ ∃ v, m = .set (.backlightLevel v) := by
  unfold brightnessPlan
  split <;> simp [Plan.ok, Plan.raise, gpio, Micro.plainColor, duty_le]

theorem brightnessPlan_endsEarly (cfg : ColorCfg) (r : Bool) (b : Byte) : (brightnessPlan cfg r b).endsEarly := by
  unfold brightnessPlan
  split
  · exact .inl rfl
  · exact .inl rfl
  · exact .inr (.inl rfl)
  · exact .inr (.inr (.inl rfl))

/-- The elements of a COLOR plan are plain, but for the lifecycle writes of init, the reads of a write or a fill, and the
backlight level, which is written in Ready only. -/
theorem colorPlan_plain {k : Consts} {op : ColorOps} {cfg : ColorCfg} {q : Regs} {e : Env} {i : Instr} {p : Plan}
    (h : colorPlan k op cfg q e i = some p) :
    ∀ m ∈ p.micros, m.plainColor = true ∨ (i = .colorInit ∧ m.lifecycle = true) ∨
      (streams i = true ∧ m.reads) ∨ q.phase = .ready ∧ ∃ v, m = .set (.backlightLevel v) := by
  unfold colorPlan at h
  split at h
  case h_1 =>
    obtain rfl := Option.some.inj h
    intro m hm
    split at hm
    · exact (colorInitPlan_plain _ _ _ m hm).imp_right fun hl => .inl ⟨rfl, hl⟩
    · simp only [initNotReady, List.mem_singleton] at hm
      exact .inr (.inl ⟨rfl, hm ▸ rfl⟩)
  case h_17 =>
    obtain ⟨c, -, rfl⟩ := Option.map_eq_some_iff.1 h
    exact fun m hm => .inl (cmdp_plain _ _ m hm)
  case h_10 b =>
    obtain rfl := Option.some.inj h
    rcases gate_cases q (brightnessPlan cfg (readyAll (pwmHandles cfg) e) b) with ⟨hg, hready⟩ | ⟨hg, -⟩ <;> rw [hg]
    · exact fun m hm => (brightnessPlan_plain _ _ _ m hm).imp_right fun hv => .inr (.inr ⟨hready, hv⟩)
    · simp [Plan.raise]
  case h_2 =>
    obtain rfl := Option.some.inj h
    refine fun m hm => (gate_micros (P := fun m => m.plainColor = true ∨ m.reads) _ ?_ m hm).imp_right
      fun hr => .inr (.inl ⟨rfl, hr⟩)
    simp only [Plan.after, List.forall_mem_append, List.forall_mem_cons]
    exact ⟨⟨.inr (.inr ⟨_, rfl⟩), by simp⟩, colorWritePlan_plain _ _ _ _ _⟩
  case h_11 =>
    obtain rfl := Option.some.inj h
    exact fun m hm => (gate_micros _ (fillPlan_plain _ _ _ _) m hm).imp_right fun hr => .inr (.inl ⟨rfl, hr⟩)
  all_goals
    obtain rfl := Option.some.inj h
    refine fun m hm => .inl ?_
    revert m hm
  case h_3 => simp [Plan.raise]
  case h_4 => exact gate_micros _ (by unfold colorPixelFormatPlan; split <;> simp [Plan.ok, Plan.raise])
  case h_5 => exact gate_micros _ (by unfold orientationPlan; split <;> simp [Plan.ok, Plan.raise])
  case h_6 => exact gate_micros _ (colorSleepIn_plain _)
  case h_7 => exact gate_micros _ (colorSleepOut_plain _ _)
  case h_8 => exact gate_micros _ (colorDisplayOff_plain _)
  case h_9 => exact gate_micros _ (colorDisplayOn_plain _)
  case h_12 => exact colorDisplayOff_plain _
  case h_13 => exact colorDisplayOn_plain _
  case h_14 => exact colorSleepIn_plain _
  case h_15 => exact colorSleepOut_plain _ _
  case h_16 => split <;> simp_all [Plan.ok, dat, Micro.plainColor]

/-! ## Fill -/

/-- A chunk of no pixel: the first inner write, if there is one, is rejected. -/
theorem fillLoop_rejected (op : ColorOps) (cfg : ColorCfg) (rows fuel yf : Nat)
    (h : cfg.width.toNat = 0 ∨ rows = 0) :
    ((fillLoop op cfg rows fuel yf).final = .result .ok ∨
      (fillLoop op cfg rows fuel yf).final = .result .geometryViolation) ∧
    ∀ m ∈ (fillLoop op cfg rows fuel yf).micros, ∃ y, m = .set (.yf y) := by
  cases fuel with
  | zero => exact ⟨.inl rfl, by simp [fillLoop, Plan.ok]⟩
  | succ fuel =>
    unfold fillLoop
    split
    · exact ⟨.inl rfl, by simp [Plan.ok]⟩
    · have hrejected : colorWritePlan op cfg 0 yf (fillRect cfg rows (min rows (cfg.height.toNat - yf))) =
          .raise .geometryViolation := by
        rcases colorWritePlan_cases op cfg 0 yf (fillRect cfg rows (min rows (cfg.height.toNat - yf)))
          with ⟨hraise, -⟩ | ⟨-, hw, hh, -⟩
        · exact hraise
        · simp only [fillRect] at hw hh
          omega
      dsimp only
      rw [hrejected]
      exact ⟨.inr rfl, by simp [Plan.after, Plan.andThen, Plan.raise]⟩

/-- An inner write of a fill is a contiguous COLOR write that its chunk covers. -/
theorem colorWritePlan_fillRect (op : ColorOps) (cfg : ColorCfg) (rows h yf : Nat) (hw : cfg.width.toNat ≠ 0)
    (hh : h ≠ 0) (hle : h ≤ rows) :
    colorWritePlan op cfg 0 yf (fillRect cfg rows h) = .ok (colorWindow op cfg 0 yf (fillRect cfg rows h) ++
      [.send 0 (cfg.width.toNat * h * cfg.pixelFormat.bytes)]) := by
  rcases colorWritePlan_cases op cfg 0 yf (fillRect cfg rows h) with ⟨-, hr⟩ | ⟨-, -, -, ⟨-, hs⟩ | ⟨he, -⟩⟩
  · simp only [fillRect] at hr
    omega
  · simp only [bytesNeeded, fillRect, if_pos] at hs
    exact absurd hs (Nat.not_lt.2 (Nat.mul_le_mul_right _ (Nat.mul_le_mul_left _ hle)))
  · rw [he]
    simp [colorStream, colorContiguous, fillRect]

/-- With a chunk of some pixels, a fill is a sequence of writes that ends in Ok and reads inside its chunk. -/
theorem fillLoop_ok (op : ColorOps) (cfg : ColorCfg) (rows fuel yf : Nat) (chunk : List Byte)
    (hw : cfg.width.toNat ≠ 0) (hrows : rows ≠ 0)
    (hchunk : chunk.length = cfg.width.toNat * rows * cfg.pixelFormat.bytes) :
    (fillLoop op cfg rows fuel yf).final = .result .ok ∧
      ∀ m ∈ (fillLoop op cfg rows fuel yf).micros, m.within chunk := by
  induction fuel generalizing yf with
  | zero => exact ⟨rfl, by simp [fillLoop, Plan.ok]⟩
  | succ fuel ih =>
    unfold fillLoop
    split
    · exact ⟨rfl, by simp [Plan.ok]⟩
    · next hlt =>
      have hle : min rows (cfg.height.toNat - yf) ≤ rows := Nat.min_le_left _ _
      dsimp only
      rw [colorWritePlan_fillRect op cfg rows _ yf hw (by omega) hle]
      obtain ⟨hfinal, hwithin⟩ := ih (yf + min rows (cfg.height.toNat - yf))
      refine ⟨hfinal, ?_⟩
      simp only [Plan.after, Plan.andThen, Plan.ok, if_pos, List.forall_mem_append, List.forall_mem_cons]
      refine ⟨⟨trivial, by simp⟩, ⟨fun m hm => (colorWindow_reads_nothing _ _ _ _ _ chunk m hm).1, ?_, by simp⟩, hwithin⟩
      simp only [Micro.within, hchunk, Nat.zero_add]
      exact Nat.mul_le_mul_right _ (Nat.mul_le_mul_left _ hle)

theorem length_fillChunk (count : Nat) (color : List Byte) : (fillChunk count color).length = count * color.length := by
  simp [fillChunk]

theorem fillPlan_endsEarly (k : Consts) (op : ColorOps) (cfg : ColorCfg) (c : List Byte) :
    (fillPlan k op cfg c).endsEarly := by
  unfold fillPlan
  split
  · exact .inr (.inr (.inr ⟨rfl, by simp [Plan.raise]⟩))
  · next hlen =>
    by_cases hzero : cfg.width.toNat = 0 ∨ k.fillChunkRows = 0
    · rcases fillLoop_rejected op cfg k.fillChunkRows cfg.height.toNat 0 hzero with ⟨hok | hgeo, hms⟩
      · exact .inl hok
      · refine .inr (.inr (.inr ⟨hgeo, ?_⟩))
        simp only [Plan.after, List.forall_mem_append, List.forall_mem_singleton]
        refine ⟨rfl, fun m hm => ?_⟩
        obtain ⟨y, rfl⟩ := hms m hm
        rfl
    · obtain ⟨hw, hrows⟩ := not_or.1 hzero
      exact .inl (fillLoop_ok op cfg _ _ 0 (fillChunk (cfg.width.toNat * k.fillChunkRows) c) hw hrows
        (by rw [length_fillChunk, not_not.1 hlen])).1

theorem colorPixelFormatPlan_endsEarly (cfg : ColorCfg) (f : Format) : (colorPixelFormatPlan cfg f).endsEarly := by
  unfold colorPixelFormatPlan
  split
  · exact .inl rfl
  · exact .inr (.inr (.inl rfl))

/-- A COLOR plan ends in Ok or before any action, but for an init that is not ready and a write whose declared buffer is
too short. -/
theorem colorPlan_final {k : Consts} {op : ColorOps} {cfg : ColorCfg} {q : Regs} {e : Env} {i : Instr} {p : Plan}
    (h : colorPlan k op cfg q e i = some p) :
    p.endsEarly ∨ (i = .colorInit ∧ p = initNotReady) ∨
      (∃ x y d pix, i = .colorWrite x y d pix) ∧ p.final = .fault .hostBufferOverrun := by
  unfold colorPlan at h
  split at h
  case h_17 =>
    obtain ⟨c, -, rfl⟩ := Option.map_eq_some_iff.1 h
    exact .inl (.inl rfl)
  all_goals obtain rfl := Option.some.inj h
  case h_1 =>
    split
    · exact .inl (.inl rfl)
    · exact .inr (.inl ⟨rfl, rfl⟩)
  case h_2 x y d pix =>
    rcases gate_cases q (.after [.set (.pix pix)] (colorWritePlan op cfg x.toNat y.toNat (rectOf d)))
      with ⟨hg, -⟩ | ⟨hg, -⟩ <;> rw [hg]
    · rcases colorWritePlan_cases op cfg x.toNat y.toNat (rectOf d) with ⟨hw, -⟩ | ⟨-, -, -, ⟨hw, -⟩ | ⟨hw, -⟩⟩ <;>
        rw [hw]
      · exact .inl (.inr (.inr (.inr ⟨rfl, by simp [Plan.after, Plan.raise, Micro.working]⟩)))
      · exact .inr (.inr ⟨⟨x, y, d, pix, rfl⟩, rfl⟩)
      · exact .inl (.inl rfl)
    · exact .inl (.inr (.inl rfl))
  all_goals refine .inl ?_
  case h_3 => exact .inr (.inr (.inl rfl))
  case h_4 => exact gate_endsEarly _ (colorPixelFormatPlan_endsEarly _ _)
  case h_5 => exact gate_endsEarly _ (orientationPlan_endsEarly _)
  case h_10 => exact gate_endsEarly _ (brightnessPlan_endsEarly _ _ _)
  case h_11 => exact gate_endsEarly _ (fillPlan_endsEarly _ _ _ _)
  case h_12 => exact Plan.ok_endsEarly _
  case h_13 => exact Plan.ok_endsEarly _
  case h_14 => exact Plan.ok_endsEarly _
  case h_15 => exact Plan.ok_endsEarly _
  case h_16 => exact Plan.ok_endsEarly _
  all_goals exact gate_endsEarly _ (Plan.ok_endsEarly _)

end Sys2Proof.Machine

/-!
PROOFS. The rules of the whole machine: its invariants, the line shadows, transfers that carry bytes, failed transfers,
errors before actions, and the lifecycle. Each is a fact about how an operation ends (`Ended`) and about the elements and
the results of the plans (`monoPlan_plain`, `monoPlan_final` and their COLOR counterparts).
-/

namespace Sys2Proof.Machine

/-! ## What lasting writes keep -/

theorem lastingOf_keeps {P : Regs → Prop} {ms : List Micro} (hm : ∀ m ∈ ms, ∀ g, P g → P (m.lasting g)) {q : Regs}
    (h : P q) : P (lastingOf ms q) := by
  induction ms generalizing q with
  | nil => exact h
  | cons m ms ih =>
    rw [List.forall_mem_cons] at hm
    exact ih hm.2 (hm.1 q h)

theorem Micro.lasting_idle (m : Micro) (g : Regs) (h : g.idle) : (m.lasting g).idle := by
  cases m with
  | act a =>
    cases a with
    | gpio l v => cases l <;> exact h
    | _ => exact h
  | send a n => exact h
  | set w => cases w <;> exact h

/-- The display and sleep shadows are never cleared. -/
theorem Micro.lasting_switched (m : Micro) (g : Regs) :
    (g.dispOn.isSome = true → (m.lasting g).dispOn.isSome = true) ∧
    (g.asleep.isSome = true → (m.lasting g).asleep.isSome = true) := by
  cases m with
  | act a => simp [Micro.lasting]
  | send a n => exact ⟨id, id⟩
  | set w =>
    cases w with
    | dispOn v => exact ⟨fun _ => rfl, id⟩
    | asleep v => exact ⟨id, fun _ => rfl⟩
    | _ => exact ⟨id, id⟩

/-- Only a lifecycle write changes the lifecycle registers. -/
theorem Micro.lasting_lifecycle {m : Micro} (h : m.lifecycle = false) (g : Regs) :
    (m.lasting g).phase = g.phase ∧ (m.lasting g).indeterminate = g.indeterminate := by
  cases m with
  | act a => simp [Micro.lasting]
  | send a n => exact ⟨rfl, rfl⟩
  | set w =>
    cases w with
    | phase p => contradiction
    | indeterminate v => contradiction
    | _ => exact ⟨rfl, rfl⟩

theorem Micro.lifecycle_of_plainMono {m : Micro} (h : m.plainMono = true) : m.lifecycle = false := by
  cases m with
  | set w => cases w <;> first | rfl | contradiction
  | _ => rfl

theorem Micro.lifecycle_of_plainColor {m : Micro} (h : m.plainColor = true) : m.lifecycle = false := by
  cases m with
  | set w => cases w <;> first | rfl | contradiction
  | _ => rfl

/-- The lasting registers are untouched by writes of working registers. -/
theorem lastingOf_working {ms : List Micro} (h : ∀ m ∈ ms, m.working = true) (q : Regs) : lastingOf ms q = q := by
  refine lastingOf_keeps (P := (· = q)) (fun m hm g hg => ?_) rfl
  have hw := h m hm
  cases m with
  | act a => contradiction
  | send a n => contradiction
  | set w => cases w <;> first | exact hg | contradiction

/-- Writes of registers leave nothing in the trace. -/
theorem Runs.of_sets {pix : Option (List Byte)} {ms : List Micro} {es : List Entry} (h : Runs pix ms es)
    (hm : ∀ m ∈ ms, ∃ w, m = .set w) : es = [] := by
  induction h with
  | nil => rfl
  | act a _ _ => obtain ⟨w, hw⟩ := hm _ (List.mem_cons_self ..); contradiction
  | send _ _ _ => obtain ⟨w, hw⟩ := hm _ (List.mem_cons_self ..); contradiction
  | set _ ih => exact ih fun m hms => hm m (List.mem_cons_of_mem _ hms)

theorem Micro.working_set {m : Micro} (h : m.working = true) : ∃ w, m = .set w := by
  cases m with
  | set w => exact ⟨w, rfl⟩
  | _ => contradiction

/-! ## What an ended operation keeps -/

section
variable {π : Type} {sink : π → Entry → π} {b : Bool} {p : Plan} {q q' : Inst π} {r : Result}

/-- What the lasting writes of a plan and the updates of R505 keep holds of the registers at its end. -/
theorem Ended.regs_keep {P : Regs → Prop} (h : Ended sink b p q r q')
    (hstart : ∀ es, P { q.regs.finish with trace := q.regs.trace ++ es })
    (hm : ∀ m ∈ p.micros, ∀ g, P g → P (m.lasting g)) (habandon : ∀ g, P g → P (g.abandon b)) : P q'.regs := by
  cases h with
  | completed hruns hfinal => exact lastingOf_keeps hm (hstart _)
  | abandoned hsplit hruns hsends =>
    refine habandon _ (lastingOf_keeps (fun m hms => hm m ?_) (hstart _))
    rw [hsplit]
    exact List.mem_append_left _ hms

/-- What the sink keeps holds of the panel at the end of an operation. -/
theorem Ended.panel_keep {P : π → Prop} (h : Ended sink b p q r q') (hsink : ∀ x e, P x → P (sink x e))
    (hstart : P q.panel) : P q'.panel := by
  have hfold : ∀ es : List Entry, P (es.foldl sink q.panel) :=
    fun es => List.foldlRecOn es sink hstart fun x hx e _ => hsink x e hx
  cases h with
  | completed hruns hfinal => exact hfold _
  | abandoned hsplit hruns hsends => exact hfold _

/-- The trace only grows: by completed entries, or by them and one failed transfer, each of which an element of the plan
spells; and BusTransferFailure is the answer in the second case, the plan's own result in the first. -/
theorem Ended.trace (h : Ended sink b p q r q') :
    ∃ es, q'.regs.trace = q.regs.trace ++ es ∧
      ((Runs q.regs.pix p.micros es ∧ p.final = .result r) ∨
       ∃ fs f s m, es = fs ++ [⟨.xfer f s, false⟩] ∧ (∀ e ∈ fs, e.ok = true) ∧ m ∈ p.micros ∧ m.sends f s ∧
        (∀ e ∈ fs, .act e.act ∈ p.micros ∨ ∃ a s, e.act = .xfer .data s ∧ .send a s.length ∈ p.micros) ∧
        r = .busTransferFailure ∧ q'.regs.indeterminate = true ∧
        q'.panel = sink (fs.foldl sink q.panel) ⟨.xfer f s, false⟩) := by
  cases h with
  | completed hruns hfinal => exact ⟨_, lastingOf_trace _ _, .inl ⟨hruns, hfinal⟩⟩
  | @abandoned ms₁ ms₂ m es f s hsplit hruns hsends =>
    have hsub : ∀ m' ∈ ms₁, m' ∈ p.micros := fun m' hm => by
      rw [hsplit]
      exact List.mem_append_left _ hm
    refine ⟨es ++ [⟨.xfer f s, false⟩], by exact lastingOf_trace ms₁ _, .inr ⟨es, f, s, m, rfl, fun e he => (hruns.mem e he).1,
      by simp [hsplit], hsends, fun e he => ?_, rfl, rfl, ?_⟩⟩
    · exact (hruns.mem e he).2.imp (hsub _) fun ⟨a, s, hs, hm⟩ => ⟨a, s, hs, hsub _ hm⟩
    · simp [Inst.after, Inst.withRegs, Inst.rested]

/-- A plan that writes no lifecycle register: `phase` stays, and only a failed transfer sets `indeterminate`. -/
theorem Ended.lifecycle_keep (h : Ended sink false p q r q') (hm : ∀ m ∈ p.micros, m.lifecycle = false) :
    q'.regs.phase = q.regs.phase ∧
      (q'.regs.indeterminate = q.regs.indeterminate ∨ r = .busTransferFailure ∧ q'.regs.indeterminate = true) := by
  have hphase : q'.regs.phase = q.regs.phase := h.regs_keep (P := fun g => g.phase = q.regs.phase) (fun _ => rfl)
    (fun m hms g hg => (Micro.lasting_lifecycle (hm m hms) g).1.trans hg) (fun g hg => hg)
  refine ⟨hphase, ?_⟩
  cases h with
  | completed hruns hfinal =>
    exact .inl (lastingOf_keeps (P := fun g => g.indeterminate = q.regs.indeterminate)
      (fun m hms g hg => (Micro.lasting_lifecycle (hm m hms) g).2.trans hg) rfl)
  | abandoned hsplit hruns hsends => exact .inr ⟨rfl, rfl⟩

/-- How an init ends: its whole plan performed; at a failed transfer; or not ready. -/
theorem Ended.init_cases (h : Ended sink true p q r q') (hp : p.final = .result .ok ∨ p = initNotReady) :
    (r = .ok ∧ p.final = .result .ok ∧ ∃ g, q'.regs = lastingOf p.micros g) ∨
    (r = .busTransferFailure ∧ q'.regs.phase = .failed ∧ q'.regs.indeterminate = true) ∨
    (r = .deviceNotReady ∧ q'.regs.phase = .failed ∧ q'.regs.indeterminate = q.regs.indeterminate ∧
      q'.regs.trace = q.regs.trace) := by
  cases h with
  | completed hruns hfinal =>
    rcases hp with hok | rfl
    · rw [hok] at hfinal
      obtain rfl := Final.result.inj hfinal
      exact .inl ⟨rfl, hok, _, rfl⟩
    · obtain rfl := Final.result.inj hfinal
      obtain rfl := hruns.of_sets (by simp [initNotReady])
      exact .inr (.inr ⟨rfl, rfl, rfl, List.append_nil _⟩)
  | abandoned hsplit hruns hsends => exact .inr (.inl ⟨rfl, rfl, rfl⟩)

/-- A plan that writes working registers only leaves a unit between operations as it was. -/
theorem Ended.of_working (h : Ended sink b p q r q') (hm : ∀ m ∈ p.micros, m.working = true) (hidle : q.regs.idle) :
    q' = q := by
  cases h with
  | completed hruns hfinal =>
    obtain rfl := hruns.of_sets fun m hms => Micro.working_set (hm m hms)
    simp [Inst.withRegs, lastingOf_working hm, Inst.rested_of_idle hidle]
  | @abandoned ms₁ ms₂ m es f s hsplit hruns hsends =>
    obtain ⟨w, rfl⟩ := Micro.working_set (hm m (by simp [hsplit]))
    rcases hsends with hact | ⟨-, a, hsend⟩ <;> contradiction

end

/-! ## The invariant -/

/-- What holds of the MONO registers at every moment of an operation. -/
def Regs.monoOnly (q : Regs) : Prop :=
  q.idle ∧ isMonoFormat q.pf = true ∧
    q.asleep = none ∧ q.backlightLevel = none ∧ q.blLine = none ∧ q.pwmSetting = none

/-- What holds of the COLOR registers at every moment of an operation. -/
def Regs.colorOnly (cfg : ColorCfg) (q : Regs) : Prop :=
  q.idle ∧ q.pf = cfg.pixelFormat.toFormat ∧ q.supplyLine = none ∧ ∀ p d, q.pwmSetting = some (p, d) → d ≤ p

theorem Micro.lasting_monoOnly {m : Micro} (hm : m.plainMono = true ∨ m.lifecycle = true ∨ m.reads) (g : Regs)
    (h : g.monoOnly) :
    (m.lasting g).monoOnly := by
  obtain ⟨hidle, hpf, hrest⟩ := h
  refine ⟨Micro.lasting_idle m g hidle, ?_⟩
  cases m with
  | act a =>
    cases a with
    | gpio l v =>
      cases l with
      | backlight => simp [Micro.plainMono, Micro.lifecycle, Micro.reads] at hm
      | _ => exact ⟨hpf, hrest⟩
    | pwm p d => simp [Micro.plainMono, Micro.lifecycle, Micro.reads] at hm
    | _ => exact ⟨hpf, hrest⟩
  | send a n => exact ⟨hpf, hrest⟩
  | set w =>
    cases w with
    | asleep v => simp [Micro.plainMono, Micro.lifecycle, Micro.reads] at hm
    | backlightLevel v => simp [Micro.plainMono, Micro.lifecycle, Micro.reads] at hm
    | pf f => exact ⟨hm.resolve_right (by simp [Micro.lifecycle, Micro.reads]), hrest⟩
    | _ => exact ⟨hpf, hrest⟩

theorem Micro.lasting_colorOnly (cfg : ColorCfg) {m : Micro}
    (hm : m.plainColor = true ∨ m.lifecycle = true ∨ m.reads ∨ ∃ v, m = .set (.backlightLevel v)) (g : Regs)
    (h : g.colorOnly cfg) : (m.lasting g).colorOnly cfg := by
  obtain ⟨hidle, hpf, hsupply, hduty⟩ := h
  refine ⟨Micro.lasting_idle m g hidle, ?_⟩
  cases m with
  | act a =>
    cases a with
    | gpio l v =>
      cases l with
      | supply => simp [Micro.plainColor, Micro.lifecycle, Micro.reads] at hm
      | _ => exact ⟨hpf, hsupply, hduty⟩
    | pwm p d =>
      have hle : d ≤ p := by simpa [Micro.plainColor, Micro.lifecycle, Micro.reads] using hm
      refine ⟨hpf, hsupply, fun p' d' hset => ?_⟩
      obtain ⟨rfl, rfl⟩ := Prod.mk.inj (Option.some.inj hset)
      exact hle
    | _ => exact ⟨hpf, hsupply, hduty⟩
  | send a n => exact ⟨hpf, hsupply, hduty⟩
  | set w =>
    cases w with
    | pf f => simp [Micro.plainColor, Micro.lifecycle, Micro.reads] at hm
    | _ => exact ⟨hpf, hsupply, hduty⟩

/-- A whole MONO init has switched the display. -/
theorem lastingOf_monoInitPlan_dispOn (k : Consts) (op : MonoOps) (cfg : MonoCfg) (g : Regs) :
    (lastingOf (monoInitPlan k op cfg).micros g).dispOn = some true := by
  rw [monoInitPlan_eq, lastingOf_cons, lastingOf_append]
  rfl

/-- A whole COLOR init leaves the unit in Ready and determinate, with the display on and awake. -/
theorem lastingOf_colorInitPlan (k : Consts) (op : ColorOps) (cfg : ColorCfg) (g : Regs) :
    (lastingOf (colorInitPlan k op cfg).micros g).phase = .ready ∧
    (lastingOf (colorInitPlan k op cfg).micros g).indeterminate = false ∧
    (lastingOf (colorInitPlan k op cfg).micros g).dispOn = some true ∧
    (lastingOf (colorInitPlan k op cfg).micros g).asleep = some false := by
  simp only [colorInitPlan, colorWake, colorSleepOut, colorDisplayOn, Plan.ok, lastingOf_append, lastingOf_cmdp]
  exact ⟨rfl, rfl, rfl, rfl⟩

/-- The plan of an init is the whole sequence or the end of one that is not ready. -/
theorem monoPlan_init {s : State} {p : Plan} (h : s.monoPlan .monoInit = some p) :
    p = monoInitPlan s.k s.mop s.mcfg ∨ p = initNotReady := by
  obtain rfl := Option.some.inj h
  split
  · exact .inl rfl
  · exact .inr rfl

theorem colorPlan_init {s : State} {p : Plan} (h : s.colorPlan .colorInit = some p) :
    p = colorInitPlan s.k s.cop s.ccfg ∨ p = initNotReady := by
  obtain rfl := Option.some.inj h
  split
  · exact .inl rfl
  · exact .inr rfl

/-- How a MONO instruction treats its lifecycle registers (R36, R37). -/
theorem monoPlan_lifecycle {i : Instr} {s : State} {p : Plan} {r : Result} {q : Inst MonoPanel}
    (hp : s.monoPlan i = some p)
    (h : Ended s.monoSink (decide (i = .monoInit)) p (s.askMono (monoAsks s.mcfg i)).mono r q) :
    (i ≠ .monoInit ∧ q.regs.phase = s.mono.regs.phase ∧
      (q.regs.indeterminate = s.mono.regs.indeterminate ∨ r = .busTransferFailure ∧ q.regs.indeterminate = true)) ∨
    (i = .monoInit ∧
      ((r = .ok ∧ q.regs.phase = .ready ∧ q.regs.indeterminate = false ∧ q.regs.dispOn.isSome = true) ∨
       (r = .busTransferFailure ∧ q.regs.phase = .failed ∧ q.regs.indeterminate = true) ∨
       (r = .deviceNotReady ∧ q.regs.phase = .failed ∧ q.regs.indeterminate = s.mono.regs.indeterminate ∧
        q.regs.trace = s.mono.regs.trace))) := by
  by_cases hi : i = .monoInit
  · subst hi
    refine .inr ⟨rfl, ?_⟩
    have hinit := monoPlan_init hp
    rcases h.init_cases (hinit.imp_left (by rintro rfl; rfl)) with ⟨hr, hfinal, g, hg⟩ | hfailed | hnot
    · rcases hinit with rfl | rfl
      · obtain ⟨hphase, hdet⟩ := lastingOf_monoInitPlan s.k s.mop s.mcfg g
        exact .inl ⟨hr, by rw [hg, hphase], by rw [hg, hdet], by rw [hg, lastingOf_monoInitPlan_dispOn]; rfl⟩
      · contradiction
    · exact .inr (.inl hfailed)
    · exact .inr (.inr hnot)
  · simp only [hi, decide_false] at h
    refine .inl ⟨hi, h.lifecycle_keep fun m hm => ?_⟩
    rcases monoPlan_plain hp m hm with hplain | ⟨hinit, -⟩ | ⟨-, ⟨a, n, rfl, -⟩ | ⟨pix, rfl⟩⟩
    · exact Micro.lifecycle_of_plainMono hplain
    · exact absurd hinit hi
    · rfl
    · rfl

/-- How a COLOR instruction treats its lifecycle registers. -/
theorem colorPlan_lifecycle {i : Instr} {s : State} {p : Plan} {r : Result} {q : Inst ColorPanel}
    (hp : s.colorPlan i = some p)
    (h : Ended s.colorSink (decide (i = .colorInit)) p (s.askColor (colorAsks s.ccfg s.color.regs i)).color r q) :
    (i ≠ .colorInit ∧ q.regs.phase = s.color.regs.phase ∧
      (q.regs.indeterminate = s.color.regs.indeterminate ∨ r = .busTransferFailure ∧ q.regs.indeterminate = true)) ∨
    (i = .colorInit ∧
      ((r = .ok ∧ q.regs.phase = .ready ∧ q.regs.indeterminate = false ∧ q.regs.dispOn.isSome = true ∧
        q.regs.asleep.isSome = true) ∨
       (r = .busTransferFailure ∧ q.regs.phase = .failed ∧ q.regs.indeterminate = true) ∨
       (r = .deviceNotReady ∧ q.regs.phase = .failed ∧ q.regs.indeterminate = s.color.regs.indeterminate ∧
        q.regs.trace = s.color.regs.trace))) := by
  by_cases hi : i = .colorInit
  · subst hi
    refine .inr ⟨rfl, ?_⟩
    have hinit := colorPlan_init hp
    rcases h.init_cases (hinit.imp_left (by rintro rfl; rfl)) with ⟨hr, hfinal, g, hg⟩ | hfailed | hnot
    · rcases hinit with rfl | rfl
      · obtain ⟨hphase, hdet, hdisp, hsleep⟩ := lastingOf_colorInitPlan s.k s.cop s.ccfg g
        exact .inl ⟨hr, by rw [hg, hphase], by rw [hg, hdet], by rw [hg, hdisp]; rfl, by rw [hg, hsleep]; rfl⟩
      · contradiction
    · exact .inr (.inl hfailed)
    · exact .inr (.inr hnot)
  · simp only [hi, decide_false] at h
    refine .inl ⟨hi, h.lifecycle_keep fun m hm => ?_⟩
    rcases colorPlan_plain hp m hm with hplain | ⟨hinit, -⟩ | ⟨-, ⟨a, n, rfl, -⟩ | ⟨pix, rfl⟩⟩ | ⟨-, v, rfl⟩
    · exact Micro.lifecycle_of_plainColor hplain
    · exact absurd hinit hi
    · rfl
    · rfl
    · rfl

/-- A MONO instruction keeps the invariant of its unit. -/
theorem monoInv_ended {i : Instr} {s : State} {p : Plan} {r : Result} {q : Inst MonoPanel} (hinv : MonoInv s.mono)
    (hp : s.monoPlan i = some p)
    (h : Ended s.monoSink (decide (i = .monoInit)) p (s.askMono (monoAsks s.mcfg i)).mono r q) : MonoInv q := by
  have honly : q.regs.monoOnly := h.regs_keep
    (fun es => ⟨⟨rfl, rfl, rfl, rfl, rfl⟩, hinv.format, hinv.unused⟩)
    (fun m hm => Micro.lasting_monoOnly ((monoPlan_plain hp m hm).imp_right (.imp And.right And.right))) (fun g hg => hg)
  have hdisp (hs : s.mono.regs.dispOn.isSome = true) : q.regs.dispOn.isSome = true :=
    h.regs_keep (P := fun g => g.dispOn.isSome = true) (fun _ => hs) (fun m _ g => (Micro.lasting_switched m g).1)
      (fun g hg => hg)
  obtain ⟨hidle, hformat, hunused⟩ := honly
  have hstore : q.panel.cells.wf = true :=
    h.panel_keep (P := fun x => x.cells.wf = true) (fun x e => MonoPanel.wf_receive s.k s.mcfg e) hinv.store
  refine ⟨hidle, hformat, ?uninit, ?ready, hunused, hstore⟩
  case uninit =>
    intro hphase
    rcases monoPlan_lifecycle hp h with ⟨-, hkeep, hdet⟩ | ⟨-, ⟨-, hready, -⟩ | ⟨-, -, hset⟩ | ⟨-, hfailed, -⟩⟩
    · rcases hdet with hdet | ⟨-, hdet⟩
      · rw [hdet]
        exact hinv.uninit (hkeep.symm.trans hphase)
      · exact hdet
    · rw [hready] at hphase
      contradiction
    · exact hset
    · rw [hfailed] at hphase
      contradiction
  case ready =>
    intro hphase
    rcases monoPlan_lifecycle hp h with ⟨-, hkeep, -⟩ | ⟨-, ⟨-, -, -, hon⟩ | ⟨-, hfailed, -⟩ | ⟨-, hfailed, -⟩⟩
    · exact hdisp (hinv.ready (hkeep.symm.trans hphase))
    · exact hon
    · rw [hfailed] at hphase
      contradiction
    · rw [hfailed] at hphase
      contradiction

/-- A COLOR instruction keeps the invariant of its unit. -/
theorem colorInv_ended {i : Instr} {s : State} {p : Plan} {r : Result} {q : Inst ColorPanel}
    (hinv : ColorInv s.ccfg s.color) (hp : s.colorPlan i = some p)
    (h : Ended s.colorSink (decide (i = .colorInit)) p (s.askColor (colorAsks s.ccfg s.color.regs i)).color r q) :
    ColorInv s.ccfg q := by
  have honly : q.regs.colorOnly s.ccfg := h.regs_keep
    (fun es => ⟨⟨rfl, rfl, rfl, rfl, rfl⟩, hinv.format, hinv.unused, hinv.duty⟩)
    (fun m hm => Micro.lasting_colorOnly _ ((colorPlan_plain hp m hm).imp_right (.imp And.right (.imp And.right And.right))))
    (fun g hg => hg)
  have hdisp (hs : s.color.regs.dispOn.isSome = true) : q.regs.dispOn.isSome = true :=
    h.regs_keep (P := fun g => g.dispOn.isSome = true) (fun _ => hs) (fun m _ g => (Micro.lasting_switched m g).1)
      (fun g hg => hg)
  have hsleep (hs : s.color.regs.asleep.isSome = true) : q.regs.asleep.isSome = true :=
    h.regs_keep (P := fun g => g.asleep.isSome = true) (fun _ => hs) (fun m _ g => (Micro.lasting_switched m g).2)
      (fun g hg => hg)
  have hlevel (hphase : s.color.regs.phase ≠ .ready) (hs : s.color.regs.backlightLevel = none) :
      q.regs.backlightLevel = none := by
    refine h.regs_keep (P := fun g => g.backlightLevel = none) (fun _ => hs) (fun m hm g hg => ?_) (fun g hg => hg)
    have hplain := colorPlan_plain hp m hm
    cases m with
    | act a => exact (Regs.effect_backlightLevel g a).trans hg
    | send a n => exact hg
    | set w =>
      cases w with
      | backlightLevel v =>
        rcases hplain with hfalse | ⟨-, hfalse⟩ | ⟨-, ⟨a, n, hfalse, -⟩ | ⟨pix, hfalse⟩⟩ | ⟨hready, -⟩
        · contradiction
        · contradiction
        · contradiction
        · exact absurd (Micro.set.inj hfalse) (by simp)
        · exact absurd hready hphase
      | _ => exact hg
  obtain ⟨hidle, hformat, hunused, hduty⟩ := honly
  have hstore : q.panel.cells.wf = true :=
    h.panel_keep (P := fun x => x.cells.wf = true) (fun x e => ColorPanel.wf_receive s.ccfg e) hinv.store
  refine ⟨hidle, hformat, ?uninit, ?ready, hunused, hduty, hstore⟩
  case uninit =>
    intro hphase
    rcases colorPlan_lifecycle hp h with ⟨-, hkeep, hdet⟩ | ⟨-, ⟨-, hready, -⟩ | ⟨-, hfailed, -⟩ | ⟨-, hfailed, -⟩⟩
    · obtain ⟨hwas, hnone⟩ := hinv.uninit (hkeep.symm.trans hphase)
      refine ⟨?_, hlevel (by rw [← hkeep, hphase]; decide) hnone⟩
      rcases hdet with hdet | ⟨-, hdet⟩
      · rw [hdet, hwas]
      · exact hdet
    · rw [hready] at hphase
      contradiction
    · rw [hfailed] at hphase
      contradiction
    · rw [hfailed] at hphase
      contradiction
  case ready =>
    intro hphase
    rcases colorPlan_lifecycle hp h with ⟨-, hkeep, -⟩ | ⟨-, ⟨-, -, -, hon⟩ | ⟨-, hfailed, -⟩ | ⟨-, hfailed, -⟩⟩
    · obtain ⟨hd, hs⟩ := hinv.ready (hkeep.symm.trans hphase)
      exact ⟨hdisp hd, hsleep hs⟩
    · exact hon
    · rw [hfailed] at hphase
      contradiction
    · rw [hfailed] at hphase
      contradiction

/-- Every instruction keeps the invariant. -/
theorem exec_keeps_inv {i : Instr} {s t : State} (hinv : s.Inv) (h : exec i s = .next t) : t.Inv := by
  cases hu : unitOf i with
  | mono =>
    rcases exec_mono_next hu h with ⟨-, rfl⟩ | ⟨p, r, q, hp, hended, rfl⟩
    · exact ⟨hinv.mono, hinv.color⟩
    · exact ⟨monoInv_ended (s := s) hinv.mono hp hended, hinv.color⟩
  | color =>
    rcases exec_color_next hu h with ⟨-, rfl⟩ | ⟨p, r, q, hp, hended, rfl⟩
    · exact ⟨hinv.mono, hinv.color⟩
    · exact ⟨hinv.mono, colorInv_ended (s := s) hinv.color hp hended⟩

/-- Settles O10: an instruction keeps the invariant (`exec_keeps_inv`), and taking a call does not touch what it speaks
of. -/
theorem stepKeepsInvariant : Obligations.StepKeepsInvariant := by
  intro s t hinv h
  rcases step_next h with ⟨-, rfl⟩ | ⟨i, hexec⟩
  · exact hinv
  · exact exec_keeps_inv (s := s.taken) ⟨hinv.mono, hinv.color⟩ hexec

/-! ## The lifecycle -/

/-- Settles O19: `monoPlan_lifecycle` and `colorPlan_lifecycle`, and the other unit is not touched. -/
theorem lifecycleOnlyByInit : Obligations.LifecycleOnlyByInit := by
  intro i s t h
  cases hu : unitOf i with
  | mono =>
    have hcolor : i ≠ .colorInit := by rintro rfl; contradiction
    rcases exec_mono_next hu h with ⟨rfl, rfl⟩ | ⟨p, r, q, hp, hended, rfl⟩
    · exact ⟨.inl ⟨by simp, rfl⟩, .inl ⟨hcolor, rfl⟩, .inl rfl, .inl rfl⟩
    · rcases monoPlan_lifecycle hp hended with ⟨hi, hphase, hdet⟩ | ⟨hi, ⟨rfl, hphase, hdet, -⟩ |
        ⟨rfl, hphase, hdet⟩ | ⟨rfl, hphase, hdet, -⟩⟩
      · refine ⟨.inl ⟨hi, hphase⟩, .inl ⟨hcolor, rfl⟩, ?_, .inl rfl⟩
        exact hdet.imp_right fun ⟨hr, hset⟩ => .inr ⟨hset, by rw [hr]⟩
      · exact ⟨.inr (.inl ⟨hi, rfl, hphase, hdet⟩), .inl ⟨hcolor, rfl⟩, .inr (.inl ⟨hdet, hi, rfl⟩), .inl rfl⟩
      · exact ⟨.inr (.inr ⟨hi, by simp, hphase⟩), .inl ⟨hcolor, rfl⟩, .inr (.inr ⟨hdet, rfl⟩), .inl rfl⟩
      · exact ⟨.inr (.inr ⟨hi, by simp, hphase⟩), .inl ⟨hcolor, rfl⟩, .inl hdet, .inl rfl⟩
  | color =>
    have hmono : i ≠ .monoInit := by rintro rfl; contradiction
    rcases exec_color_next hu h with ⟨rfl, rfl⟩ | ⟨p, r, q, hp, hended, rfl⟩
    · exact ⟨.inl ⟨hmono, rfl⟩, .inl ⟨by simp, rfl⟩, .inl rfl, .inl rfl⟩
    · rcases colorPlan_lifecycle hp hended with ⟨hi, hphase, hdet⟩ | ⟨hi, ⟨rfl, hphase, hdet, -⟩ |
        ⟨rfl, hphase, hdet⟩ | ⟨rfl, hphase, hdet, -⟩⟩
      · refine ⟨.inl ⟨hmono, rfl⟩, .inl ⟨hi, hphase⟩, .inl rfl, ?_⟩
        exact hdet.imp_right fun ⟨hr, hset⟩ => .inr ⟨hset, by rw [hr]⟩
      · exact ⟨.inl ⟨hmono, rfl⟩, .inr (.inl ⟨hi, rfl, hphase, hdet⟩), .inl rfl, .inr (.inl ⟨hdet, hi, rfl⟩)⟩
      · exact ⟨.inl ⟨hmono, rfl⟩, .inr (.inr ⟨hi, by simp, hphase⟩), .inl rfl, .inr (.inr ⟨hdet, rfl⟩)⟩
      · exact ⟨.inl ⟨hmono, rfl⟩, .inr (.inr ⟨hi, by simp, hphase⟩), .inl rfl, .inl hdet⟩

end Sys2Proof.Machine

/-!
PROOFS. The rules of the whole machine, continued: the line shadows, transfers that carry bytes, failed transfers, errors
before actions, and the only fault.
-/

namespace Sys2Proof.Machine

/-! ## The line shadows (R42) -/

theorem lastPwm_concat (es : List Entry) (e : Entry) :
    lastPwm (es ++ [e]) = match e.act with | .pwm p d => some (p, d) | _ => lastPwm es := by
  rw [lastPwm, List.foldl_concat]
  rfl

/-- The line shadows match a trace when each line's shadow is the level the trace drove on it last. -/
theorem Regs.shadowsMatch_iff (q : Regs) :
    q.shadowsMatch ↔ (∀ l, q.line l = lastLevel l q.trace) ∧ q.pwmSetting = lastPwm q.trace := by
  constructor
  · rintro ⟨hreset, hsupply, hbacklight, hpwm⟩
    refine ⟨fun l => ?_, hpwm⟩
    cases l
    · exact hreset
    · exact hsupply
    · exact hbacklight
  · rintro ⟨hline, hpwm⟩
    exact ⟨hline .reset, hline .supply, hline .backlight, hpwm⟩

/-- Recording an action with its effect on the lines keeps the shadows equal to what was last driven. -/
theorem Regs.shadowsMatch_commit {q : Regs} (h : q.shadowsMatch) (e : Entry) :
    ((q.effect e.act).record e).shadowsMatch := by
  rw [Regs.shadowsMatch_iff] at h ⊢
  obtain ⟨hline, hpwm⟩ := h
  simp only [Regs.record_trace, Regs.effect_trace]
  refine ⟨fun l => ?_, ?_⟩
  · rw [lastLevel_concat, ← hline]
    exact Regs.line_effect q e.act e.ok l
  · rw [lastPwm_concat, ← hpwm]
    obtain ⟨a, ok⟩ := e
    cases a with
    | gpio l v => cases l <;> rfl
    | _ => rfl

theorem perform_shadowsMatch {π : Type} (sink : π → Entry → π) (a : Act) {q : Inst π} (h : q.regs.shadowsMatch) :
    (∀ q', Inst.perform sink a q = .completed q' → q'.regs.shadowsMatch) ∧
    (∀ q', Inst.perform sink a q = .failed q' → q'.regs.shadowsMatch) := by
  cases ha : a.isXfer with
  | false =>
    rw [perform_other sink a q ha]
    exact ⟨fun q' hq => Performed.completed.inj hq ▸ Regs.shadowsMatch_commit h ⟨a, true⟩, fun q' hq => by contradiction⟩
  | true =>
    cases a with
    | xfer f s =>
      cases hhead : q.env.xfer.head with
      | true =>
        rw [perform_xfer_ok sink f s q hhead]
        exact ⟨fun q' hq => Performed.completed.inj hq ▸ Regs.shadowsMatch_commit h ⟨.xfer f s, true⟩,
          fun q' hq => by contradiction⟩
      | false =>
        rw [perform_xfer_err sink f s q hhead]
        exact ⟨fun q' hq => by contradiction,
          fun q' hq => Performed.failed.inj hq ▸ Regs.shadowsMatch_commit h ⟨.xfer f s, false⟩⟩
    | _ => contradiction

/-- Every operation keeps the line shadows equal to what its trace last drove. -/
theorem runPlan_shadowsMatch {π : Type} (sink : π → Entry → π) (b : Bool) (p : Plan) {q q' : Inst π} {r : Result}
    (h : q.regs.shadowsMatch) (hrun : runPlan sink b p q = .done r q') : q'.regs.shadowsMatch := by
  unfold runPlan at hrun
  split at hrun
  · next r₁ q₁ hms =>
    obtain ⟨rfl, rfl⟩ := RunResult.done.inj hrun
    have hkept := runMicros_keeps sink b (fun q => q.regs.shadowsMatch) (fun q => q.regs.shadowsMatch) _ _
      (q.withRegs Regs.begin) h
      (fun w _ q hq => by simpa [Regs.shadowsMatch] using hq)
      (fun a q q' hq hdone => (perform_shadowsMatch sink a hq).1 q' hdone)
      (fun a q q' hq hfail => (perform_shadowsMatch sink a hq).2 q' hfail) hms
    rcases hkept with ⟨-, hq⟩ | ⟨-, hq⟩ <;> exact hq
  · contradiction

theorem exec_shadowsMatch {i : Instr} {s t : State} (hmono : s.mono.regs.shadowsMatch)
    (hcolor : s.color.regs.shadowsMatch) (h : exec i s = .next t) :
    t.mono.regs.shadowsMatch ∧ t.color.regs.shadowsMatch := by
  rcases exec_shape i s with ⟨c, he⟩ | ⟨-, b, p, hs, he, -⟩ | ⟨-, b, p, hs, he, -⟩ <;> rw [he] at h
  · obtain rfl := Host.Outcome.next.inj h
    exact ⟨hmono, hcolor⟩
  · rcases runMono_cases b p (s.askMono hs) with ⟨f, hf⟩ | ⟨r, q, hrun, hnext⟩
    · rw [hf] at h
      contradiction
    · obtain rfl := Host.Outcome.next.inj (hnext.symm.trans h)
      exact ⟨runPlan_shadowsMatch (q := (s.askMono hs).mono) _ b p hmono hrun, hcolor⟩
  · rcases runColor_cases b p (s.askColor hs) with ⟨f, hf⟩ | ⟨r, q, hrun, hnext⟩
    · rw [hf] at h
      contradiction
    · obtain rfl := Host.Outcome.next.inj (hnext.symm.trans h)
      exact ⟨hmono, runPlan_shadowsMatch (q := (s.askColor hs).color) _ b p hcolor hrun⟩

/-- Settles O11: every action records its entry and drives its line together (`Regs.shadowsMatch_commit`). -/
theorem stepKeepsLineShadows : Obligations.StepKeepsLineShadows := by
  intro s t hmono hcolor h
  rcases step_next h with ⟨-, rfl⟩ | ⟨i, hexec⟩
  · exact ⟨hmono, hcolor⟩
  · exact exec_shadowsMatch (s := s.taken) hmono hcolor hexec

/-! ## Transfers carry bytes (R104) -/

/-- A transfer an element makes is not empty. -/
def Micro.carries (m : Micro) : Prop := ∀ f s, m.sends f s → s ≠ []

theorem Micro.carries_of_reads {m : Micro} (h : m.reads) : m.carries := by
  rcases h with ⟨a, n, rfl, hn⟩ | ⟨pix, rfl⟩
  · rintro f s (hact | ⟨-, a', hsend⟩)
    · contradiction
    · obtain ⟨-, rfl⟩ := Micro.send.inj hsend
      rintro rfl
      exact hn rfl
  · rintro f s (hact | ⟨-, a', hsend⟩) <;> contradiction

theorem Micro.carries_of_lifecycle {m : Micro} (h : m.lifecycle = true) : m.carries := by
  cases m with
  | set w => rintro f s (hact | ⟨-, a, hsend⟩) <;> contradiction
  | _ => contradiction

theorem Micro.carries_of_plainMono {m : Micro} (h : m.plainMono = true) : m.carries := by
  rintro f s (rfl | ⟨-, a, rfl⟩)
  · rintro rfl
    contradiction
  · contradiction

theorem Micro.carries_of_plainColor {m : Micro} (h : m.plainColor = true) : m.carries := by
  rintro f s (rfl | ⟨-, a, rfl⟩)
  · rintro rfl
    contradiction
  · contradiction

theorem monoPlan_carries {s : State} {i : Instr} {p : Plan} (hp : s.monoPlan i = some p) :
    ∀ m ∈ p.micros, m.carries := by
  intro m hm
  rcases monoPlan_plain hp m hm with h | ⟨-, h⟩ | ⟨-, h⟩
  · exact Micro.carries_of_plainMono h
  · exact Micro.carries_of_lifecycle h
  · exact Micro.carries_of_reads h

theorem colorPlan_carries {s : State} {i : Instr} {p : Plan} (hp : s.colorPlan i = some p) :
    ∀ m ∈ p.micros, m.carries := by
  intro m hm
  rcases colorPlan_plain hp m hm with h | ⟨-, h⟩ | ⟨-, h⟩ | ⟨-, v, rfl⟩
  · exact Micro.carries_of_plainColor h
  · exact Micro.carries_of_lifecycle h
  · exact Micro.carries_of_reads h
  · rintro f s (hact | ⟨-, a, hsend⟩) <;> contradiction

/-- An operation whose elements carry bytes makes no empty transfer, and only a transfer of it can fail. -/
theorem Ended.carries {π : Type} {sink : π → Entry → π} {b : Bool} {p : Plan} {q q' : Inst π} {r : Result}
    (h : Ended sink b p q r q') (hm : ∀ m ∈ p.micros, m.carries) :
    ∃ es, q'.regs.trace = q.regs.trace ++ es ∧ noEmptyTransfer es ∧ onlyTransfersFail es := by
  have hfrom : ∀ es : List Entry,
      (∀ e ∈ es, .act e.act ∈ p.micros ∨ ∃ a s, e.act = .xfer .data s ∧ .send a s.length ∈ p.micros) →
      noEmptyTransfer es := by
    intro es hes e he f s hact
    rcases hes e he with hmem | ⟨a, s', hact', hmem⟩
    · exact hm _ hmem f s (.inl (by rw [hact]))
    · obtain ⟨rfl, rfl⟩ := Act.xfer.inj (hact.symm.trans hact')
      exact hm _ hmem _ _ (.inr ⟨rfl, a, rfl⟩)
  obtain ⟨es, htrace, ⟨hruns, -⟩ | ⟨fs, f, s, m, rfl, hok, hmem, hsends, hfs, -⟩⟩ := h.trace
  · refine ⟨es, htrace, hfrom es fun e he => (hruns.mem e he).2, fun e he hfail => ?_⟩
    rw [(hruns.mem e he).1] at hfail
    contradiction
  · refine ⟨_, htrace, fun e he f' s' hact => ?_, fun e he hfail => ?_⟩
    · rcases List.mem_append.1 he with he | he
      · exact hfrom fs hfs e he f' s' hact
      · rw [List.mem_singleton.1 he] at hact
        obtain ⟨rfl, rfl⟩ := Act.xfer.inj hact
        exact hm m hmem _ _ hsends
    · rcases List.mem_append.1 he with he | he
      · rw [hok e he] at hfail
        contradiction
      · rw [List.mem_singleton.1 he]
        rfl

theorem noEmptyTransfer_nil : noEmptyTransfer [] := fun _ he => by contradiction

theorem onlyTransfersFail_nil : onlyTransfersFail [] := fun _ he => by contradiction

/-- Settles O12: every element of a plan carries bytes (`monoPlan_carries`, `colorPlan_carries`). -/
theorem stepSendsNoEmptyTransfer : Obligations.StepSendsNoEmptyTransfer := by
  intro s t h
  have hidle : ∀ t' : State, t'.mono.regs.trace = s.mono.regs.trace → t'.color.regs.trace = s.color.regs.trace →
      ∃ es fs, t'.mono.regs.trace = s.mono.regs.trace ++ es ∧ t'.color.regs.trace = s.color.regs.trace ++ fs ∧
        noEmptyTransfer (es ++ fs) ∧ onlyTransfersFail (es ++ fs) := fun t' hm hc =>
    ⟨[], [], by rw [hm, List.append_nil], by rw [hc, List.append_nil], noEmptyTransfer_nil, onlyTransfersFail_nil⟩
  rcases step_next h with ⟨-, rfl⟩ | ⟨i, hexec⟩
  · exact hidle t rfl rfl
  · cases hu : unitOf i with
    | mono =>
      rcases exec_mono_next hu hexec with ⟨-, rfl⟩ | ⟨p, r, q, hp, hended, rfl⟩
      · exact hidle _ rfl rfl
      · obtain ⟨es, htrace, hcarry, hfail⟩ := hended.carries (monoPlan_carries hp)
        exact ⟨es, [], htrace, (List.append_nil _).symm, by rwa [List.append_nil], by rwa [List.append_nil]⟩
    | color =>
      rcases exec_color_next hu hexec with ⟨-, rfl⟩ | ⟨p, r, q, hp, hended, rfl⟩
      · exact hidle _ rfl rfl
      · obtain ⟨fs, htrace, hcarry, hfail⟩ := hended.carries (colorPlan_carries hp)
        exact ⟨[], fs, (List.append_nil _).symm, htrace, hcarry, hfail⟩

/-! ## Failed transfers (R505) -/

/-- A plan that ends early never ends in BusTransferFailure of its own. -/
theorem Plan.endsEarly.final_ne {p : Plan} (h : p.endsEarly) : p.final ≠ .result .busTransferFailure := by
  rcases h with hok | rfl | rfl | ⟨hgeo, -⟩
  · rw [hok]; decide
  · decide
  · decide
  · rw [hgeo]; decide

theorem monoPlan_final_ne {s : State} {i : Instr} {p : Plan} (hp : s.monoPlan i = some p) :
    p.final ≠ .result .busTransferFailure := by
  rcases monoPlan_final hp with hearly | ⟨-, rfl⟩ | ⟨hgeo, -⟩
  · exact hearly.final_ne
  · decide
  · rw [hgeo]; decide

theorem colorPlan_final_ne {s : State} {i : Instr} {p : Plan} (hp : s.colorPlan i = some p) :
    p.final ≠ .result .busTransferFailure := by
  rcases colorPlan_final hp with hearly | ⟨-, rfl⟩ | ⟨-, hfault⟩
  · exact hearly.final_ne
  · decide
  · rw [hfault]; decide

/-- The two ways a trace grows: by completed actions, and then the answer is the plan's own; or up to the failed transfer,
which is the last thing the panel received. -/
theorem Ended.failure {π : Type} {sink : π → Entry → π} {b : Bool} {p : Plan} {q q' : Inst π} {r : Result}
    (h : Ended sink b p q r q') (hfinal : p.final ≠ .result .busTransferFailure) :
    ∃ es, q'.regs.trace = q.regs.trace ++ es ∧
      (((∀ e ∈ es, e.ok = true) ∧ r ≠ .busTransferFailure) ∨
       ∃ fs f s x, es = fs ++ [⟨.xfer f s, false⟩] ∧ (∀ e ∈ fs, e.ok = true) ∧ r = .busTransferFailure ∧
        q'.regs.indeterminate = true ∧ q'.panel = sink x ⟨.xfer f s, false⟩) := by
  obtain ⟨es, htrace, ⟨hruns, hr⟩ | ⟨fs, f, s, m, hes, hok, -, -, -, hr, hdet, hpanel⟩⟩ := h.trace
  · exact ⟨es, htrace, .inl ⟨fun e he => (hruns.mem e he).1, fun hbus => hfinal (hbus ▸ hr)⟩⟩
  · exact ⟨es, htrace, .inr ⟨fs, f, s, _, hes, hok, hr, hdet, hpanel⟩⟩

/-- Settles O17: `Ended.failure` gives the trace, `monoPlan_lifecycle` and `colorPlan_lifecycle` the phase, and
`MonoPanel.receive_failed` and `ColorPanel.receive_failed` the panel's store. -/
theorem failedTransferAbandons : Obligations.FailedTransferAbandons := by
  refine ⟨fun i s t hu h => ?_, fun i s t hu h => ?_⟩
  · rcases exec_mono_next hu h with ⟨-, rfl⟩ | ⟨p, r, q, hp, hended, rfl⟩
    · exact ⟨[], (List.append_nil _).symm, .inl ⟨by simp, by simp⟩⟩
    · obtain ⟨es, htrace, ⟨hok, hr⟩ | ⟨fs, f, bytes, x, rfl, hok, rfl, hdet, hpanel⟩⟩ :=
        hended.failure (monoPlan_final_ne hp)
      · exact ⟨es, htrace, .inl ⟨hok, by simpa using hr⟩⟩
      · refine ⟨_, htrace, .inr ⟨fs, _, rfl, hok, rfl, rfl, rfl, hdet, ?_, fun a => ?_⟩⟩
        · rcases monoPlan_lifecycle hp hended with ⟨hi, hphase, -⟩ | ⟨hi, ⟨hne, -⟩ | ⟨-, hphase, -⟩ | ⟨hne, -⟩⟩
          · rw [if_neg hi]; exact hphase
          · contradiction
          · rw [if_pos hi]; exact hphase
          · contradiction
        · have hcells : q.panel.cells = [] := by rw [hpanel]; exact MonoPanel.receive_failed _ _ _ _ _
          simp only [hcells, Memory.read]
  · rcases exec_color_next hu h with ⟨-, rfl⟩ | ⟨p, r, q, hp, hended, rfl⟩
    · exact ⟨[], (List.append_nil _).symm, .inl ⟨by simp, by simp⟩⟩
    · obtain ⟨es, htrace, ⟨hok, hr⟩ | ⟨fs, f, bytes, x, rfl, hok, rfl, hdet, hpanel⟩⟩ :=
        hended.failure (colorPlan_final_ne hp)
      · exact ⟨es, htrace, .inl ⟨hok, by simpa using hr⟩⟩
      · refine ⟨_, htrace, .inr ⟨fs, _, rfl, hok, rfl, rfl, rfl, hdet, ?_, fun a => ?_⟩⟩
        · rcases colorPlan_lifecycle hp hended with ⟨hi, hphase, -⟩ | ⟨hi, ⟨hne, -⟩ | ⟨-, hphase, -⟩ | ⟨hne, -⟩⟩
          · rw [if_neg hi]; exact hphase
          · contradiction
          · rw [if_pos hi]; exact hphase
          · contradiction
        · have hcells : q.panel.cells = [] := by rw [hpanel]; exact ColorPanel.receive_failed _ _ _ _
          simp only [hcells, Memory.read]

/-! ## Errors before actions -/

/-- A plan that ends early with an error of its own leaves a unit between operations as it was. -/
theorem Ended.of_endsEarly {π : Type} {sink : π → Entry → π} {b : Bool} {p : Plan} {q q' : Inst π} {r : Result}
    (h : Ended sink b p q r q') (hearly : p.endsEarly) (hok : r ≠ .ok) (hbus : r ≠ .busTransferFailure)
    (hidle : q.regs.idle) : q' = q ∧ p.final = .result r := by
  have hworking : p.final = .result r → ∀ m ∈ p.micros, m.working = true := by
    intro hfinal
    rcases hearly with hokay | rfl | rfl | ⟨-, hm⟩
    · exact absurd (Final.result.inj (hfinal.symm.trans hokay)) hok
    · simp [Plan.raise]
    · simp [Plan.raise]
    · exact hm
  have hfinal : p.final = .result r := by
    obtain ⟨es, -, ⟨-, hfinal⟩ | ⟨_, _, _, _, -, -, -, -, -, hr, -⟩⟩ := h.trace
    · exact hfinal
    · exact absurd hr hbus
  exact ⟨h.of_working (hworking hfinal) hidle, hfinal⟩

theorem monoAsks_of_ne {cfg : MonoCfg} {i : Instr} (h : i ≠ .monoInit) : monoAsks cfg i = [] := by
  cases i <;> first | rfl | contradiction

/-- The PWM is asked for its readiness only where set_brightness then ends in Ok or DeviceNotReady. -/
theorem colorAsks_of_ne {s : State} {i : Instr} {p : Plan} {r : Result} (hp : s.colorPlan i = some p)
    (hfinal : p.final = .result r) (hok : r ≠ .ok) (hready : r ≠ .deviceNotReady) (hi : i ≠ .colorInit) :
    colorAsks s.ccfg s.color.regs i = [] := by
  cases i
  case colorInit => contradiction
  case colorSetBrightness b =>
    obtain rfl := Option.some.inj hp
    change (if s.color.regs.isReady then pwmHandles s.ccfg else []) = []
    split
    · next hr =>
      rw [gate, if_pos hr] at hfinal
      unfold brightnessPlan at hfinal
      split at hfinal
      · exact absurd (Final.result.inj hfinal).symm hok
      · exact absurd (Final.result.inj hfinal).symm hok
      · exact absurd (Final.result.inj hfinal).symm hready
      · next hnone _ => simp [pwmHandles, hnone]
    · rfl
  all_goals rfl

/-- How a MONO instruction ends with an error that is not a failed transfer. -/
theorem exec_mono_error {i : Instr} {s t : State} {r : Result} (hu : unitOf i = .mono) (hidle : s.mono.regs.idle)
    (h : exec i s = .next t) (hr : t.answer = some (.result r)) (hok : r ≠ .ok) (hbus : r ≠ .busTransferFailure) :
    t = s.answered r ∨ (r = .deviceNotReady ∧ t.mono.regs.trace = s.mono.regs.trace ∧ t.color = s.color) ∨
      (r = .geometryViolation ∧ (∃ x y d pix, i = .monoWrite x y d pix) ∧ s.mcfg.chip = .sh1106) := by
  rcases exec_mono_next hu h with ⟨-, rfl⟩ | ⟨p, r', q, hp, hended, rfl⟩
  · simp at hr
  · obtain rfl : r' = r := by simpa using hr
    by_cases hi : i = .monoInit
    · rcases monoPlan_lifecycle hp hended with ⟨hne, -⟩ | ⟨-, ⟨rfl, -⟩ | ⟨rfl, -⟩ | ⟨hnot, -, -, htrace⟩⟩
      · contradiction
      · contradiction
      · contradiction
      · exact .inr (.inl ⟨hnot, htrace, rfl⟩)
    · rw [monoAsks_of_ne hi] at hended
      rcases monoPlan_final hp with hearly | ⟨hinit, -⟩ | ⟨hgeo, hwrite, hchip⟩
      · obtain ⟨rfl, -⟩ := hended.of_endsEarly hearly hok hbus hidle
        exact .inl rfl
      · contradiction
      · obtain ⟨es, -, ⟨-, hfinal⟩ | ⟨_, _, _, _, -, -, -, -, -, hbus', -⟩⟩ := hended.trace
        · exact .inr (.inr ⟨Final.result.inj (hfinal.symm.trans hgeo), hwrite, hchip⟩)
        · contradiction

/-- How a COLOR instruction ends with an error that is not a failed transfer. -/
theorem exec_color_error {i : Instr} {s t : State} {r : Result} (hu : unitOf i = .color) (hidle : s.color.regs.idle)
    (h : exec i s = .next t) (hr : t.answer = some (.result r)) (hok : r ≠ .ok) (hbus : r ≠ .busTransferFailure) :
    t = s.answered r ∨ (r = .deviceNotReady ∧ t.color.regs.trace = s.color.regs.trace ∧ t.mono = s.mono) := by
  rcases exec_color_next hu h with ⟨-, rfl⟩ | ⟨p, r', q, hp, hended, rfl⟩
  · simp at hr
  · obtain rfl : r' = r := by simpa using hr
    by_cases hi : i = .colorInit
    · rcases colorPlan_lifecycle hp hended with ⟨hne, -⟩ | ⟨-, ⟨rfl, -⟩ | ⟨rfl, -⟩ | ⟨hnot, -, -, htrace⟩⟩
      · contradiction
      · contradiction
      · contradiction
      · exact .inr ⟨hnot, htrace, rfl⟩
    · rcases colorPlan_final hp with hearly | ⟨hinit, -⟩ | ⟨-, hfault⟩
      · obtain ⟨rfl, hfinal⟩ := hended.of_endsEarly hearly hok hbus hidle
        by_cases hready : r' = .deviceNotReady
        · exact .inr ⟨hready, rfl, rfl⟩
        · rw [colorAsks_of_ne hp hfinal hok hready hi]
          exact .inl rfl
      · contradiction
      · obtain ⟨es, -, ⟨-, hfinal⟩ | ⟨_, _, _, _, -, -, -, -, -, hbus', -⟩⟩ := hended.trace
        · rw [hfault] at hfinal
          contradiction
        · contradiction

/-- Settles O18: `exec_mono_error` and `exec_color_error`, for each of the three errors. -/
theorem errorsComeBeforeActions : Obligations.ErrorsComeBeforeActions := by
  intro i s t hmono hcolor h
  cases hu : unitOf i with
  | mono =>
    refine ⟨fun hr => ?_, fun hr => ?_, fun hr => ?_⟩
    · rcases exec_mono_error hu hmono h hr (by decide) (by decide) with rfl | ⟨-, htrace, hother⟩ | ⟨hne, -⟩
      · exact ⟨rfl, rfl⟩
      · exact ⟨htrace, by rw [hother]⟩
      · contradiction
    · rcases exec_mono_error hu hmono h hr (by decide) (by decide) with ht | ⟨hne, -⟩ | ⟨hne, -⟩
      · exact ht
      · contradiction
      · contradiction
    · rcases exec_mono_error hu hmono h hr (by decide) (by decide) with ht | ⟨hne, -⟩ | ⟨-, ⟨x, y, d, pix, hi⟩, hchip⟩
      · exact .inr ht
      · contradiction
      · exact .inl ⟨x, y, d, pix, hi, hchip⟩
  | color =>
    refine ⟨fun hr => ?_, fun hr => ?_, fun hr => ?_⟩
    · rcases exec_color_error hu hcolor h hr (by decide) (by decide) with rfl | ⟨-, htrace, hother⟩
      · exact ⟨rfl, rfl⟩
      · exact ⟨by rw [hother], htrace⟩
    · rcases exec_color_error hu hcolor h hr (by decide) (by decide) with ht | ⟨hne, -⟩
      · exact ht
      · contradiction
    · rcases exec_color_error hu hcolor h hr (by decide) (by decide) with ht | ⟨hne, -⟩
      · exact .inr ht
      · contradiction

/-! ## The only fault (R102, R310) -/

/-- A sequence whose reads stay inside the buffer in use, and that does not end in a fault, does not fault. -/
theorem runMicros_no_fault {π : Type} (sink : π → Entry → π) (b : Bool) {pix : List Byte} {ms : List Micro}
    {r : Result} {q : Inst π} (hpix : (∃ a n, .send a n ∈ ms) → q.regs.pix = some pix)
    (hw : ∀ m ∈ ms, m.within pix) (f : Fault) : runMicros sink b ms (.result r) q ≠ .fault f := by
  induction ms generalizing q with
  | nil => simp [runMicros]
  | cons m ms ih =>
    obtain ⟨hm, hms⟩ := List.forall_mem_cons.1 hw
    have hlater : (∃ a n, .send a n ∈ ms) → q.regs.pix = some pix :=
      fun ⟨a, n, hs⟩ => hpix ⟨a, n, List.mem_cons_of_mem _ hs⟩
    cases m with
    | set w =>
      refine ih (fun hs => ?_) hms
      have hbuffer := hlater hs
      cases w <;> first | exact hbuffer | contradiction
    | act a =>
      unfold runMicros
      split
      · next q₁ hq₁ => exact ih (fun hs => by rw [(perform_completed sink hq₁).2, hlater hs]) hms
      · simp
    | send a n =>
      unfold runMicros
      rw [hpix ⟨a, n, List.mem_cons_self ..⟩, memRead_some hm]
      dsimp only
      split
      · next q₁ hq₁ => exact ih (fun hs => by rw [(perform_completed sink hq₁).2, hlater hs]) hms
      · simp

/-- An operation never faults if its plan ends in a result and reads, if at all, inside the buffer it puts in use. -/
def Plan.sound (p : Plan) : Prop :=
  (∃ r, p.final = .result r) ∧
    ((∀ m ∈ p.micros, m.within [] ∧ ∀ a n, m ≠ .send a n) ∨
      ∃ pix ms, p.micros = .set (.pix pix) :: ms ∧ ∀ m ∈ ms, m.within pix)

theorem runPlan_sound {π : Type} (sink : π → Entry → π) (b : Bool) {p : Plan} (q : Inst π) (h : p.sound) (f : Fault) :
    runPlan sink b p q ≠ .fault f := by
  have hms : ∀ f, runMicros sink b p.micros p.final { q with regs := q.regs.begin } ≠ .fault f := by
    intro f
    obtain ⟨⟨r, hr⟩, hread⟩ := h
    rw [hr]
    rcases hread with hnone | ⟨pix, ms, hp, hw⟩
    · exact runMicros_no_fault sink b (fun ⟨a, n, hs⟩ => absurd rfl ((hnone _ hs).2 a n)) (fun m hm => (hnone m hm).1) f
    · rw [hp]
      exact runMicros_no_fault sink b (fun _ => rfl) hw f
  unfold runPlan
  split
  · simp
  · next f' hf => exact absurd hf (hms f')

theorem Plan.sound_raise (r : Result) : (Plan.raise r).sound := ⟨⟨r, rfl⟩, .inl (by simp [Plan.raise])⟩

/-- A plan whose elements read nothing and put no buffer in use is sound if it ends in a result. -/
theorem Plan.sound_of_plain {p : Plan} (hfinal : ∀ f, p.final ≠ .fault f)
    (hm : ∀ m ∈ p.micros, m.within [] ∧ ∀ a n, m ≠ .send a n) : p.sound := by
  refine ⟨?_, .inl hm⟩
  cases h : p.final with
  | result r => exact ⟨r, rfl⟩
  | fault f => exact absurd h (hfinal f)

theorem Micro.reads_nothing_of_plainMono {m : Micro} (h : m.plainMono = true) : m.within [] ∧ ∀ a n, m ≠ .send a n := by
  cases m with
  | act a => exact ⟨trivial, by simp⟩
  | send a n => contradiction
  | set w => cases w <;> first | exact ⟨trivial, by simp⟩ | contradiction

theorem Micro.reads_nothing_of_plainColor {m : Micro} (h : m.plainColor = true) :
    m.within [] ∧ ∀ a n, m ≠ .send a n := by
  cases m with
  | act a => exact ⟨trivial, by simp⟩
  | send a n => contradiction
  | set w => cases w <;> first | exact ⟨trivial, by simp⟩ | contradiction

theorem Micro.reads_nothing_of_lifecycle {m : Micro} (h : m.lifecycle = true) :
    m.within [] ∧ ∀ a n, m ≠ .send a n := by
  cases m with
  | set w => cases w <;> first | exact ⟨trivial, by simp⟩ | contradiction
  | _ => contradiction

theorem monoPlan_final_fault {s : State} {i : Instr} {p : Plan} (hp : s.monoPlan i = some p) (f : Fault) :
    p.final ≠ .fault f := by
  rcases monoPlan_final hp with (hok | rfl | rfl | ⟨hgeo, -⟩) | ⟨-, rfl⟩ | ⟨hgeo, -⟩
  · simp [hok]
  · simp [Plan.raise]
  · simp [Plan.raise]
  · simp [hgeo]
  · simp [initNotReady]
  · simp [hgeo]

/-- The plan of a MONO instruction that is no write is sound. -/
theorem monoPlan_sound {s : State} {i : Instr} {p : Plan} (hp : s.monoPlan i = some p) (hi : streams i = false) :
    p.sound := by
  refine Plan.sound_of_plain (monoPlan_final_fault hp) fun m hm => ?_
  rcases monoPlan_plain hp m hm with h | ⟨-, h⟩ | ⟨hs, -⟩
  · exact Micro.reads_nothing_of_plainMono h
  · exact Micro.reads_nothing_of_lifecycle h
  · rw [hi] at hs
    contradiction

/-- The plan of a COLOR instruction that is neither a write nor a fill is sound. -/
theorem colorPlan_sound {s : State} {i : Instr} {p : Plan} (hp : s.colorPlan i = some p) (hi : streams i = false) :
    p.sound := by
  refine Plan.sound_of_plain (fun f => ?_) fun m hm => ?_
  · rcases colorPlan_final hp with (hok | rfl | rfl | ⟨hgeo, -⟩) | ⟨-, rfl⟩ | ⟨⟨x, y, d, pix, rfl⟩, -⟩
    · simp [hok]
    · simp [Plan.raise]
    · simp [Plan.raise]
    · simp [hgeo]
    · simp [initNotReady]
    · contradiction
  · rcases colorPlan_plain hp m hm with h | ⟨-, h⟩ | ⟨hs, -⟩ | ⟨-, v, rfl⟩
    · exact Micro.reads_nothing_of_plainColor h
    · exact Micro.reads_nothing_of_lifecycle h
    · rw [hi] at hs
      contradiction
    · exact ⟨trivial, by simp⟩

/-- A MONO write over a buffer that covers its effective length is sound. -/
theorem monoWritePlan_sound (op : MonoOps) (cfg : MonoCfg) (x y : Nat) (d : Rect) (pix : List Byte)
    (h : effectiveLength d ≤ pix.length) : (monoWritePlan op cfg x y d pix).sound := by
  rcases monoWritePlan_cases op cfg x y d pix with hraise | ⟨hpath, hw, hlen⟩
  · rw [hraise]
    exact Plan.sound_raise _
  · refine ⟨?_, .inr ⟨pix, (monoWritePath op cfg x y d (effectiveLength d)).micros, by rw [hpath]; rfl, fun m hm => ?_⟩⟩
    · rcases monoWritePlan_final op cfg x y d pix with hok | ⟨hgeo, -⟩
      · exact ⟨_, hok⟩
      · exact ⟨_, hgeo⟩
    · rcases monoWritePath_micros _ _ _ _ _ _ hw hlen m hm with ⟨j, rfl⟩ | ⟨b, s, rfl⟩ | ⟨a, n, rfl, -, hn⟩
      · trivial
      · trivial
      · exact hn.trans h

/-- The stream of a COLOR write reads inside a buffer that holds the bytes it needs. -/
theorem colorStream_within (ps : Nat) (d : Rect) (pix : List Byte) (hh : d.height ≠ 0)
    (h : bytesNeeded ps d ≤ pix.length) : ∀ m ∈ colorStream ps d, m.within pix := by
  unfold colorStream
  split
  · next hp =>
    rw [bytesNeeded, if_pos hp] at h
    simpa [colorContiguous, Micro.within] using h
  · refine (colorRows_spec pix ps d.width d.pitch 0 d.height).2.2 fun j hj => le_trans ?_ h
    rw [bytesNeeded_eq ps d hh, Nat.zero_add, Nat.add_mul]
    have hle : j * d.pitch * ps ≤ (d.height - 1) * d.pitch * ps :=
      Nat.mul_le_mul_right _ (Nat.mul_le_mul_right _ (by omega))
    omega

/-- A COLOR write over a buffer whose declared size and actual bytes cover its rectangle is sound. -/
theorem colorWritePlan_sound (op : ColorOps) (cfg : ColorCfg) (x y : Nat) (d : Rect) (pix : List Byte)
    (h : d.width ≤ d.pitch → d.width ≠ 0 → d.height ≠ 0 →
      bytesNeeded cfg.pixelFormat.bytes d ≤ min d.bufSize pix.length) :
    (Plan.after [.set (.pix pix)] (colorWritePlan op cfg x y d)).sound := by
  rcases colorWritePlan_cases op cfg x y d with ⟨hraise, -⟩ | ⟨hp, hw, hh, ⟨-, hshort⟩ | ⟨hok, -⟩⟩
  · rw [hraise]
    exact ⟨⟨_, rfl⟩, .inr ⟨pix, [], rfl, by simp⟩⟩
  · have := h hp hw hh
    omega
  · rw [hok]
    have hwithin : ∀ m ∈ colorWindow op cfg x y d ++ colorStream cfg.pixelFormat.bytes d, m.within pix :=
      List.forall_mem_append.2 ⟨fun m hm => (colorWindow_reads_nothing op cfg x y d pix m hm).1,
        colorStream_within _ d pix hh ((h hp hw hh).trans (Nat.min_le_right _ _))⟩
    exact ⟨⟨_, rfl⟩, .inr ⟨pix, _, rfl, hwithin⟩⟩

/-- A fill is sound: its chunk covers each of its writes. -/
theorem fillPlan_sound (k : Consts) (op : ColorOps) (cfg : ColorCfg) (c : List Byte) : (fillPlan k op cfg c).sound := by
  unfold fillPlan
  split
  · exact Plan.sound_raise _
  · next hlen =>
    by_cases hzero : cfg.width.toNat = 0 ∨ k.fillChunkRows = 0
    · obtain ⟨hfinal, hms⟩ := fillLoop_rejected op cfg k.fillChunkRows cfg.height.toNat 0 hzero
      refine ⟨?_, .inr ⟨_, _, rfl, fun m hm => ?_⟩⟩
      · rcases hfinal with hok | hgeo
        · exact ⟨_, hok⟩
        · exact ⟨_, hgeo⟩
      · obtain ⟨y, rfl⟩ := hms m hm
        trivial
    · obtain ⟨hw, hrows⟩ := not_or.1 hzero
      obtain ⟨hok, hwithin⟩ := fillLoop_ok op cfg k.fillChunkRows cfg.height.toNat 0
        (fillChunk (cfg.width.toNat * k.fillChunkRows) c) hw hrows (by rw [length_fillChunk, not_not.1 hlen])
      exact ⟨⟨_, hok⟩, .inr ⟨_, _, rfl, hwithin⟩⟩

theorem gate_sound (q : Regs) {p : Plan} (h : q.phase = .ready → p.sound) : (gate q p).sound := by
  rcases gate_cases q p with ⟨hg, hready⟩ | ⟨hg, -⟩ <;> rw [hg]
  · exact h hready
  · exact Plan.sound_raise _

theorem runMono_sound {b : Bool} {p : Plan} (h : p.sound) (s : State) (f : Fault) : runMono b p s ≠ .fault f := by
  unfold runMono
  split
  · simp
  · next f' hf => exact absurd hf (runPlan_sound _ b s.mono h f')

theorem runColor_sound {b : Bool} {p : Plan} (h : p.sound) (s : State) (f : Fault) : runColor b p s ≠ .fault f := by
  unfold runColor
  split
  · simp
  · next f' hf => exact absurd hf (runPlan_sound _ b s.color h f')

/-- No instruction is refused. -/
theorem exec_not_refused (i : Instr) (s : State) (ρ : Refusal) : exec i s ≠ .refused ρ := by
  rcases exec_shape i s with ⟨c, he⟩ | ⟨-, b, p, hs, he, -⟩ | ⟨-, b, p, hs, he, -⟩ <;> rw [he]
  · simp
  · rcases runMono_cases b p (s.askMono hs) with ⟨f, hf⟩ | ⟨r, q, -, hnext⟩
    · simp [hf]
    · simp [hnext]
  · rcases runColor_cases b p (s.askColor hs) with ⟨f, hf⟩ | ⟨r, q, -, hnext⟩
    · simp [hf]
    · simp [hnext]

/-- A MONO write faults only in Ready over a buffer shorter than its effective length. -/
theorem execMonoWrite_fault {x y : Half} {d : BufferDescriptor} {pix : List Byte} {s : State} {f : Fault}
    (h : execMonoWrite x y d pix s = .fault f) :
    s.mono.regs.phase = .ready ∧ pix.length < min d.bufSize.toNat (d.height.toNat * d.width.toNat / 8) := by
  by_contra hnot
  refine runMono_sound (gate_sound _ fun hready => monoWritePlan_sound _ _ _ _ _ _ ?_) s f h
  exact Nat.not_lt.1 fun hlt => hnot ⟨hready, hlt⟩

/-- A COLOR write faults only in Ready over a declared or an actual buffer shorter than its rectangle. -/
theorem execColorWrite_fault {x y : Half} {d : BufferDescriptor} {pix : List Byte} {s : State} {f : Fault}
    (h : execColorWrite x y d pix s = .fault f) :
    s.color.regs.phase = .ready ∧ min d.bufSize.toNat pix.length <
      ((d.height.toNat - 1) * d.pitch.toNat + d.width.toNat) * s.ccfg.pixelFormat.bytes := by
  by_contra hnot
  refine runColor_sound (gate_sound _ fun hready => colorWritePlan_sound _ _ _ _ _ _ fun _ _ hh => ?_) s f h
  rw [bytesNeeded_eq _ _ hh]
  exact Nat.not_lt.1 fun hlt => hnot ⟨hready, hlt⟩

/-- Settles O16: every plan but a write's is sound, and a write's is outside the stated cases. -/
theorem onlyShortBuffersFault : Obligations.OnlyShortBuffersFault := by
  refine fun i s => ⟨exec_not_refused i s, fun f h => ?_⟩
  by_cases hi : streams i = true
  · cases i
    case monoWrite x y d pix => exact .inl ⟨x, y, d, pix, rfl, execMonoWrite_fault h⟩
    case colorWrite x y d pix => exact .inr ⟨x, y, d, pix, rfl, execColorWrite_fault h⟩
    case colorFill c => exact absurd h (runColor_sound (gate_sound _ fun _ => fillPlan_sound _ _ _ _) s f)
    all_goals contradiction
  · rw [Bool.not_eq_true] at hi
    exfalso
    cases hu : unitOf i with
    | mono =>
      rcases exec_mono s hu with ⟨-, he⟩ | ⟨p, hp, he⟩ <;> rw [he] at h
      · contradiction
      · exact runMono_sound (monoPlan_sound hp hi) _ f h
    | color =>
      rcases exec_color s hu with ⟨-, he⟩ | ⟨p, hp, he⟩ <;> rw [he] at h
      · contradiction
      · exact runColor_sound (colorPlan_sound hp hi) _ f h

end Sys2Proof.Machine

/-!
PROOFS. What no operation reads: the shadows (R38, R39, R41, R42) and the wiring (R47, R107, R406). For the shadows two runs
go side by side (`SameButShadows`); for the wiring the plans and the sinks are the same.
-/

namespace Sys2Proof.Machine

/-! ## Shadows -/

/-- Two units that differ in nothing but the shadows. -/
structure SameButShadows {π : Type} (q q' : Inst π) : Prop where
  regs : withShadows q'.regs q.regs = q.regs
  env : q'.env = q.env
  panel : q'.panel = q.panel

/-- Registers are the same but for shadows when every other register is. -/
theorem withShadows_eq_iff (g' g : Regs) : withShadows g' g = g ↔
    (g'.phase = g.phase ∧ g'.indeterminate = g.indeterminate ∧ g'.pf = g.pf) ∧
      (g'.apc = g.apc ∧ g'.n = g.n ∧ g'.r = g.r ∧ g'.yf = g.yf ∧ g'.pix = g.pix) ∧ g'.trace = g.trace := by
  cases g
  cases g'
  simp only [withShadows, Regs.mk.injEq]
  tauto

section
variable {g' g : Regs} (h : withShadows g' g = g)
include h

theorem withShadows_write (w : RegWrite) : withShadows (g'.write w) (g.write w) = g.write w := by
  rw [withShadows_eq_iff] at h ⊢
  cases w <;> simp [Regs.write, h]

theorem withShadows_effect (a : Act) : withShadows (g'.effect a) (g.effect a) = g.effect a := by
  rw [withShadows_eq_iff] at h ⊢
  simpa using h

theorem withShadows_record (e : Entry) : withShadows (g'.record e) (g.record e) = g.record e := by
  rw [withShadows_eq_iff] at h ⊢
  simpa using h

theorem withShadows_advance : withShadows g'.advance g.advance = g.advance := by
  rw [withShadows_eq_iff] at h ⊢
  obtain ⟨hlife, ⟨hapc, hrest⟩, htrace⟩ := h
  exact ⟨hlife, ⟨by simp [hapc], hrest⟩, htrace⟩

theorem withShadows_abandon (b : Bool) : withShadows (g'.abandon b) (g.abandon b) = g.abandon b := by
  rw [withShadows_eq_iff] at h ⊢
  obtain ⟨⟨hphase, -, hpf⟩, hrest⟩ := h
  exact ⟨⟨by simp [hphase], rfl, hpf⟩, hrest⟩

theorem withShadows_begin : withShadows g'.begin g.begin = g.begin := by
  rw [withShadows_eq_iff] at h ⊢
  obtain ⟨hlife, ⟨-, hrest⟩, htrace⟩ := h
  exact ⟨hlife, ⟨rfl, hrest⟩, htrace⟩

theorem withShadows_finish : withShadows g'.finish g.finish = g.finish := by
  rw [withShadows_eq_iff] at h ⊢
  obtain ⟨hlife, -, htrace⟩ := h
  exact ⟨hlife, ⟨rfl, rfl, rfl, rfl, rfl⟩, htrace⟩

end

section
variable {π : Type} (sink : π → Entry → π) (b : Bool)

/-- An action goes the same way on units that differ in shadows only. -/
theorem perform_sameButShadows (a : Act) {q q' : Inst π} (h : SameButShadows q q') :
    (∀ q₁, Inst.perform sink a q = .completed q₁ →
      ∃ q₁', Inst.perform sink a q' = .completed q₁' ∧ SameButShadows q₁ q₁') ∧
    (∀ q₁, Inst.perform sink a q = .failed q₁ →
      ∃ q₁', Inst.perform sink a q' = .failed q₁' ∧ SameButShadows q₁ q₁') := by
  obtain ⟨hregs, henv, hpanel⟩ := h
  cases ha : a.isXfer with
  | false =>
    rw [perform_other sink a q ha, perform_other sink a q' ha, hpanel, henv]
    refine ⟨fun q₁ hq => ⟨_, rfl, ?_⟩, fun q₁ hq => by contradiction⟩
    obtain rfl := Performed.completed.inj hq
    exact ⟨withShadows_advance (withShadows_record (withShadows_effect hregs a) _), rfl, rfl⟩
  | true =>
    cases a with
    | xfer f s =>
      cases hhead : q.env.xfer.head with
      | true =>
        rw [perform_xfer_ok sink f s q hhead, perform_xfer_ok sink f s q' (by rw [henv, hhead]), hpanel, henv]
        refine ⟨fun q₁ hq => ⟨_, rfl, ?_⟩, fun q₁ hq => by contradiction⟩
        obtain rfl := Performed.completed.inj hq
        exact ⟨withShadows_advance (withShadows_record hregs _), rfl, rfl⟩
      | false =>
        rw [perform_xfer_err sink f s q hhead, perform_xfer_err sink f s q' (by rw [henv, hhead]), hpanel, henv]
        refine ⟨fun q₁ hq => by contradiction, fun q₁ hq => ⟨_, rfl, ?_⟩⟩
        obtain rfl := Performed.failed.inj hq
        exact ⟨withShadows_record hregs _, rfl, rfl⟩
    | _ => contradiction

/-- A sequence goes the same way on units that differ in shadows only. -/
theorem runMicros_sameButShadows (ms : List Micro) (fin : Final) {q q' q₁ : Inst π} {r : Result}
    (h : SameButShadows q q') (hrun : runMicros sink b ms fin q = .done r q₁) :
    ∃ q₁', runMicros sink b ms fin q' = .done r q₁' ∧ SameButShadows q₁ q₁' := by
  induction ms generalizing q q' with
  | nil =>
    cases fin with
    | result r' =>
      obtain ⟨rfl, rfl⟩ := RunResult.done.inj hrun
      exact ⟨q', rfl, h⟩
    | fault f => contradiction
  | cons m ms ih =>
    have transfer : ∀ a : Act,
        (match Inst.perform sink a q with
          | .completed q₂ => runMicros sink b ms fin q₂
          | .failed q₂ => .done .busTransferFailure { q₂ with regs := q₂.regs.abandon b }) = .done r q₁ →
        ∃ q₁', (match Inst.perform sink a q' with
          | .completed q₂ => runMicros sink b ms fin q₂
          | .failed q₂ => .done .busTransferFailure { q₂ with regs := q₂.regs.abandon b }) = .done r q₁' ∧
          SameButShadows q₁ q₁' := by
      intro a ha
      obtain ⟨hcompleted, hfailed⟩ := perform_sameButShadows sink a h
      split at ha
      · next q₂ hq₂ =>
        obtain ⟨q₂', hq₂', hsame⟩ := hcompleted q₂ hq₂
        rw [hq₂']
        exact ih hsame ha
      · next q₂ hq₂ =>
        obtain ⟨q₂', hq₂', hsame⟩ := hfailed q₂ hq₂
        rw [hq₂']
        obtain ⟨rfl, rfl⟩ := RunResult.done.inj ha
        exact ⟨_, rfl, withShadows_abandon hsame.regs b, hsame.env, hsame.panel⟩
    cases m with
    | set w =>
      exact ih (q := q.withRegs (·.write w)) (q' := q'.withRegs (·.write w))
        ⟨withShadows_write h.regs w, h.env, h.panel⟩ hrun
    | act a => exact transfer a hrun
    | send a n =>
      have hpix : q'.regs.pix = q.regs.pix := by
        obtain ⟨-, ⟨-, -, -, -, hpix⟩, -⟩ := (withShadows_eq_iff _ _).1 h.regs
        exact hpix
      unfold runMicros at hrun ⊢
      rw [hpix]
      cases hs : memRead q.regs.pix a n with
      | none =>
        rw [hs] at hrun
        contradiction
      | some s =>
        rw [hs] at hrun
        exact transfer (.xfer .data s) hrun

/-- A whole operation goes the same way on units that differ in shadows only. -/
theorem runPlan_sameButShadows (p : Plan) {q q' q₁ : Inst π} {r : Result} (h : SameButShadows q q')
    (hrun : runPlan sink b p q = .done r q₁) :
    ∃ q₁', runPlan sink b p q' = .done r q₁' ∧ SameButShadows q₁ q₁' := by
  unfold runPlan at hrun ⊢
  split at hrun
  · next r₂ q₂ hms =>
    obtain ⟨rfl, rfl⟩ := RunResult.done.inj hrun
    obtain ⟨q₂', hq₂', hsame⟩ := runMicros_sameButShadows sink b p.micros p.final
      (q := q.withRegs Regs.begin) (q' := q'.withRegs Regs.begin) ⟨withShadows_begin h.regs, h.env, h.panel⟩ hms
    change runMicros sink b p.micros p.final { q' with regs := q'.regs.begin } = _ at hq₂'
    rw [hq₂']
    exact ⟨_, rfl, withShadows_finish hsame.regs, hsame.env, hsame.panel⟩
  · contradiction

end

/-- A state with other shadows. -/
def State.shadowed (s : State) (v w : Regs) : State :=
  { s with
    mono := { s.mono with regs := withShadows s.mono.regs v },
    color := { s.color with regs := withShadows s.color.regs w } }

theorem sameButShadows_withShadows {π : Type} (q : Inst π) (v : Regs) :
    SameButShadows q { q with regs := withShadows q.regs v } := ⟨rfl, rfl, rfl⟩

/-- With other shadows an instruction ends in a state that differs in shadows only. -/
theorem exec_shadowed {i : Instr} {s t : State} (v w : Regs) (h : exec i s = .next t) :
    ∃ t', exec i (s.shadowed v w) = .next t' ∧ t'.answer = t.answer ∧ SameButShadows t.mono t'.mono ∧
      SameButShadows t.color t'.color := by
  have hmono := sameButShadows_withShadows s.mono v
  have hcolor := sameButShadows_withShadows s.color w
  cases hu : unitOf i with
  | mono =>
    rcases exec_mono s hu with ⟨rfl, he⟩ | ⟨p, hp, he⟩
    · obtain rfl := Host.Outcome.next.inj (he.symm.trans h)
      exact ⟨_, rfl, rfl, hmono, hcolor⟩
    · rcases exec_mono (s.shadowed v w) hu with ⟨rfl, -⟩ | ⟨p', hp', he'⟩
      · contradiction
      · obtain rfl := Option.some.inj (hp.symm.trans hp')
        rw [he] at h
        rcases runMono_cases _ p (s.askMono (monoAsks s.mcfg i)) with ⟨f, hf⟩ | ⟨r, q, hrun, hnext⟩
        · rw [hf] at h
          contradiction
        · obtain rfl := Host.Outcome.next.inj (hnext.symm.trans h)
          obtain ⟨q', hrun', hsame⟩ := runPlan_sameButShadows _ _ p
            (q := (s.askMono (monoAsks s.mcfg i)).mono) (q' := ((s.shadowed v w).askMono (monoAsks s.mcfg i)).mono) ⟨rfl, rfl, rfl⟩ hrun
          exact ⟨_, he'.trans (runMono_of_done hrun'), rfl, hsame, hcolor⟩
  | color =>
    rcases exec_color s hu with ⟨rfl, he⟩ | ⟨p, hp, he⟩
    · obtain rfl := Host.Outcome.next.inj (he.symm.trans h)
      exact ⟨_, rfl, rfl, hmono, hcolor⟩
    · rcases exec_color (s.shadowed v w) hu with ⟨rfl, -⟩ | ⟨p', hp', he'⟩
      · contradiction
      · obtain rfl := Option.some.inj (hp.symm.trans hp')
        rw [he] at h
        rcases runColor_cases _ p (s.askColor (colorAsks s.ccfg s.color.regs i)) with ⟨f, hf⟩ | ⟨r, q, hrun, hnext⟩
        · rw [hf] at h
          contradiction
        · obtain rfl := Host.Outcome.next.inj (hnext.symm.trans h)
          obtain ⟨q', hrun', hsame⟩ := runPlan_sameButShadows _ _ p
            (q := (s.askColor (colorAsks s.ccfg s.color.regs i)).color)
            (q' := ((s.shadowed v w).askColor (colorAsks s.ccfg s.color.regs i)).color) ⟨rfl, rfl, rfl⟩ hrun
          exact ⟨_, he'.trans (runColor_of_done hrun'), rfl, hmono, hsame⟩

/-- Settles O20: the plan does not read the shadows, and its run goes the same way (`exec_shadowed`). -/
theorem shadowsAreNeverRead : Obligations.ShadowsAreNeverRead := by
  intro i s t v w h
  obtain ⟨t', he, hanswer, hmono, hcolor⟩ := exec_shadowed v w h
  exact ⟨t', he, hanswer, hmono.panel, hcolor.panel, hmono.env, hcolor.env, hmono.regs, hcolor.regs⟩

/-! ## Wiring -/

section
variable (mb cb : Bus) (off : Byte) (ph bh : Bool) (s : State)

theorem rewired_supplyGpio : (rewired mb cb off ph bh s).mcfg.supplyGpio.isSome = s.mcfg.supplyGpio.isSome :=
  Option.isSome_map

theorem rewired_blGpio : (rewired mb cb off ph bh s).ccfg.blGpio.isSome = s.ccfg.blGpio.isSome := Option.isSome_map

theorem monoHandles_rewired : monoHandles (rewired mb cb off ph bh s).mcfg = monoHandles s.mcfg := by
  unfold monoHandles
  rw [rewired_supplyGpio]
  rfl

theorem colorHandles_rewired : colorHandles (rewired mb cb off ph bh s).ccfg = colorHandles s.ccfg := by
  unfold colorHandles
  rw [rewired_blGpio]
  rfl

theorem monoDisplayOn_rewired : monoDisplayOn s.mop (rewired mb cb off ph bh s).mcfg = monoDisplayOn s.mop s.mcfg := by
  unfold monoDisplayOn supplyOn
  rw [rewired_supplyGpio]
  rfl

theorem monoDisplayOff_rewired :
    monoDisplayOff s.mop (rewired mb cb off ph bh s).mcfg = monoDisplayOff s.mop s.mcfg := by
  unfold monoDisplayOff supplyOff
  rw [rewired_supplyGpio]

theorem monoInitPlan_rewired :
    monoInitPlan s.k s.mop (rewired mb cb off ph bh s).mcfg = monoInitPlan s.k s.mop s.mcfg := by
  unfold monoInitPlan
  rw [monoDisplayOn_rewired]
  rfl

theorem brightnessPlan_rewired (r : Bool) (b : Byte) :
    brightnessPlan (rewired mb cb off ph bh s).ccfg r b = brightnessPlan s.ccfg r b := by
  have hpwm : (rewired mb cb off ph bh s).ccfg.blPwm = s.ccfg.blPwm := rfl
  have hgpio : (rewired mb cb off ph bh s).ccfg.blGpio = s.ccfg.blGpio.map fun _ => ⟨bh⟩ := rfl
  unfold brightnessPlan
  rw [hpwm, hgpio]
  cases s.ccfg.blGpio <;> cases s.ccfg.blPwm <;> cases r <;> rfl

/-- A MONO instruction has the same plan on another wiring. -/
theorem monoPlan_rewired (i : Instr) : (rewired mb cb off ph bh s).monoPlan i = s.monoPlan i := by
  cases i
  case monoInit =>
    change some (if readyAll (monoHandles (rewired mb cb off ph bh s).mcfg) s.mono.env then
      monoInitPlan s.k s.mop (rewired mb cb off ph bh s).mcfg else initNotReady) = _
    rw [monoHandles_rewired, monoInitPlan_rewired]
    rfl
  case monoSuspend => exact congrArg (fun ms => some (gate s.mono.regs (.ok ms))) (monoDisplayOff_rewired mb cb off ph bh s)
  case monoBlankingOn => exact congrArg (fun ms => some (gate s.mono.regs (.ok ms))) (monoDisplayOff_rewired mb cb off ph bh s)
  case monoResume => exact congrArg (fun ms => some (gate s.mono.regs (.ok ms))) (monoDisplayOn_rewired mb cb off ph bh s)
  case monoBlankingOff => exact congrArg (fun ms => some (gate s.mono.regs (.ok ms))) (monoDisplayOn_rewired mb cb off ph bh s)
  all_goals rfl

theorem monoAsks_rewired (i : Instr) : monoAsks (rewired mb cb off ph bh s).mcfg i = monoAsks s.mcfg i := by
  cases i
  case monoInit => exact monoHandles_rewired ..
  all_goals rfl

theorem fillLoop_rewired (rows fuel yf : Nat) :
    fillLoop s.cop (rewired mb cb off ph bh s).ccfg rows fuel yf = fillLoop s.cop s.ccfg rows fuel yf := by
  induction fuel generalizing yf with
  | zero => rfl
  | succ fuel ih =>
    unfold fillLoop
    dsimp only
    rw [ih]
    rfl

/-- A COLOR instruction has the same plan on another wiring. -/
theorem colorPlan_rewired (i : Instr) : (rewired mb cb off ph bh s).colorPlan i = s.colorPlan i := by
  cases i
  case colorInit =>
    change some (if readyAll (colorHandles (rewired mb cb off ph bh s).ccfg) s.color.env then
      colorInitPlan s.k s.cop s.ccfg else initNotReady) = _
    rw [colorHandles_rewired]
    rfl
  case colorSetBrightness b =>
    exact congrArg (fun p => some (gate s.color.regs p)) (brightnessPlan_rewired mb cb off ph bh s _ b)
  case colorFill c =>
    refine congrArg (fun p => some (gate s.color.regs p)) ?_
    have hloop := fillLoop_rewired mb cb off ph bh s s.k.fillChunkRows s.ccfg.height.toNat 0
    exact congrArg (fun p : Plan => if c.length ≠ s.ccfg.pixelFormat.bytes then Plan.raise .geometryViolation
      else Plan.after [.set (.pix (fillChunk (s.ccfg.width.toNat * s.k.fillChunkRows) c))] p) hloop
  all_goals rfl

theorem colorAsks_rewired (i : Instr) :
    colorAsks (rewired mb cb off ph bh s).ccfg s.color.regs i = colorAsks s.ccfg s.color.regs i := by
  cases i
  case colorInit => exact colorHandles_rewired ..
  all_goals rfl

theorem monoCommands_rewired (fuel : Nat) (bytes : List Byte) (p : MonoPanel) :
    MonoPanel.commands (rewired mb cb off ph bh s).mcfg fuel bytes p = MonoPanel.commands s.mcfg fuel bytes p := by
  induction fuel generalizing bytes p with
  | zero => cases bytes <;> rfl
  | succ fuel ih =>
    cases bytes with
    | nil => rfl
    | cons b bs =>
      unfold MonoPanel.commands
      have hchip : (rewired mb cb off ph bh s).mcfg.chip = s.mcfg.chip := rfl
      rw [hchip]
      split
      · exact ih ..
      · rfl

/-- The MONO sink does not read the wiring. -/
theorem monoSink_rewired : (rewired mb cb off ph bh s).monoSink = s.monoSink := by
  funext p e
  have hcommands := monoCommands_rewired mb cb off ph bh s
  unfold State.monoSink MonoPanel.receive
  simp only [hcommands]
  rfl

/-- An instruction goes the same way on another wiring. -/
theorem exec_rewired (i : Instr) :
    (∀ f, exec i s = .fault f → exec i (rewired mb cb off ph bh s) = .fault f) ∧
    ∀ t, exec i s = .next t → exec i (rewired mb cb off ph bh s) = .next (rewired mb cb off ph bh t) := by
  cases hu : unitOf i with
  | mono =>
    rcases exec_mono (rewired mb cb off ph bh s) hu with ⟨rfl, he'⟩ | ⟨p, hp, he'⟩
    · refine ⟨fun f h => by contradiction, fun t h => ?_⟩
      rw [← Host.Outcome.next.inj h]
      rfl
    · rw [monoPlan_rewired] at hp
      rw [monoAsks_rewired] at he'
      rcases exec_mono s hu with ⟨rfl, -⟩ | ⟨p', hp', he⟩
      · contradiction
      · obtain rfl := Option.some.inj (hp.symm.trans hp')
        rw [he, he']
        cases hrun : runPlan s.monoSink (decide (i = .monoInit)) p (s.askMono (monoAsks s.mcfg i)).mono with
        | done r q =>
          have hrun' := hrun
          rw [← monoSink_rewired mb cb off ph bh s] at hrun'
          rw [runMono_of_done (s := s.askMono _) hrun,
            runMono_of_done (s := (rewired mb cb off ph bh s).askMono _) hrun']
          exact ⟨fun f h => by contradiction, fun t h => by rw [← Host.Outcome.next.inj h]; rfl⟩
        | fault f =>
          have hrun' := hrun
          rw [← monoSink_rewired mb cb off ph bh s] at hrun'
          rw [runMono_of_fault (s := s.askMono _) hrun,
            runMono_of_fault (s := (rewired mb cb off ph bh s).askMono _) hrun']
          exact ⟨fun f h => h, fun t h => by contradiction⟩
  | color =>
    rcases exec_color (rewired mb cb off ph bh s) hu with ⟨rfl, he'⟩ | ⟨p, hp, he'⟩
    · refine ⟨fun f h => by contradiction, fun t h => ?_⟩
      rw [← Host.Outcome.next.inj h]
      rfl
    · rw [colorPlan_rewired] at hp
      have hregs : (rewired mb cb off ph bh s).color.regs = s.color.regs := rfl
      rw [hregs, colorAsks_rewired] at he'
      rcases exec_color s hu with ⟨rfl, -⟩ | ⟨p', hp', he⟩
      · contradiction
      · obtain rfl := Option.some.inj (hp.symm.trans hp')
        rw [he, he']
        cases hrun : runPlan s.colorSink (decide (i = .colorInit)) p
            (s.askColor (colorAsks s.ccfg s.color.regs i)).color with
        | done r q =>
          rw [runColor_of_done (s := s.askColor _) hrun,
            runColor_of_done (s := (rewired mb cb off ph bh s).askColor _) hrun]
          exact ⟨fun f h => by contradiction, fun t h => by rw [← Host.Outcome.next.inj h]; rfl⟩
        | fault f =>
          rw [runColor_of_fault (s := s.askColor _) hrun,
            runColor_of_fault (s := (rewired mb cb off ph bh s).askColor _) hrun]
          exact ⟨fun f h => h, fun t h => by contradiction⟩

end

/-- Settles O21: the plans, the handles asked and the sinks are the same on another wiring (`exec_rewired`). -/
theorem wiringIsNeverRead : Obligations.WiringIsNeverRead := by
  intro i s mb cb off ph bh
  obtain ⟨hfault, hnext⟩ := exec_rewired mb cb off ph bh s i
  cases h : exec i s with
  | next t => exact hnext t h
  | fault f => exact hfault f h
  | refused ρ => exact absurd h (exec_not_refused i s ρ)

end Sys2Proof.Machine

/-!
PROOFS. The decoder and the encoder. `decodeMonoByte_spells` is the inversion of the MONO command decoder: what it takes from
a stream is the one spelling of the instruction it gives.
-/

namespace Sys2Proof

/-- Two bytes and the 16-bit value they make (R109). -/
theorem ofBe16_hi8_lo8 (v : Half) : ofBe16 (hi8 v) (lo8 v) = v :=
  BitVec.extractLsb'_append_extractLsb'

theorem hi8_ofBe16 (h l : Byte) : hi8 (ofBe16 h l) = h := BitVec.extractLsb'_append_eq_left

theorem lo8_ofBe16 (h l : Byte) : lo8 (ofBe16 h l) = l :=
  (BitVec.extractLsb'_append_eq_of_add_le (Nat.le_refl 8)).trans BitVec.extractLsb'_eq_self

theorem be16_ofBe16 (h l : Byte) : be16 (ofBe16 h l) = [h, l] := by rw [be16, hi8_ofBe16, lo8_ofBe16]

theorem be32_ofBe32 (a b c d : Byte) : be32 (ofBe32 a b c d) = [a, b, c, d] := by
  have ha : (ofBe32 a b c d).extractLsb' 24 8 = a :=
    (BitVec.extractLsb'_append_eq_of_le (by decide)).trans <|
      (BitVec.extractLsb'_append_eq_of_le (by decide)).trans BitVec.extractLsb'_append_eq_left
  have hb : (ofBe32 a b c d).extractLsb' 16 8 = b :=
    (BitVec.extractLsb'_append_eq_of_le (by decide)).trans <|
      (BitVec.extractLsb'_append_eq_of_le (by decide)).trans <|
        (BitVec.extractLsb'_append_eq_of_add_le (by decide)).trans BitVec.extractLsb'_eq_self
  have hc : (ofBe32 a b c d).extractLsb' 8 8 = c :=
    (BitVec.extractLsb'_append_eq_of_le (by decide)).trans <|
      (BitVec.extractLsb'_append_eq_of_add_le (by decide)).trans BitVec.extractLsb'_eq_self
  have hd : (ofBe32 a b c d).extractLsb' 0 8 = d :=
    (BitVec.extractLsb'_append_eq_of_add_le (by decide)).trans BitVec.extractLsb'_eq_self
  rw [be32, ha, hb, hc, hd]

theorem ofBe32_be32 (v : Word32) :
    ofBe32 (v.extractLsb' 24 8) (v.extractLsb' 16 8) (v.extractLsb' 8 8) (v.extractLsb' 0 8) = v := by
  unfold ofBe32
  rw [BitVec.extractLsb'_append_extractLsb'_eq_extractLsb' (by decide),
    BitVec.extractLsb'_append_extractLsb'_eq_extractLsb' (by decide),
    BitVec.extractLsb'_append_extractLsb'_eq_extractLsb' (by decide)]
  exact BitVec.extractLsb'_eq_self

/-! ## Decoding what the encoder writes -/

theorem decodeWrite_writeBytes (u : UnitKind) (x y : Half) (d : BufferDescriptor) (pix : List Byte) :
    decodeWrite u (writeBytes x y d pix) = .ok (byUnit u (.monoWrite x y d pix) (.colorWrite x y d pix)) := by
  simp only [writeBytes, be16, be32, List.cons_append, List.nil_append, decodeWrite, ofBe16_hi8_lo8, ofBe32_be32]

theorem takeBounds_be16 (f : Half → Half → Instr) (a b : Half) : takeBounds f (be16 a ++ be16 b) = .ok (f a b) := by
  simp only [be16, List.cons_append, List.nil_append, takeBounds, ofBe16_hi8_lo8]

/-- Settles O1: the row of each instruction. The rows whose fields lie in the opcode byte are checked at every value of
the field; the others decode by the branch of their opcode. -/
theorem decodeOfEncode : Obligations.DecodeOfEncode := by
  intro chip i hwf
  cases i
  case monoLowcol l => cases chip <;> revert l <;> decide
  case monoHighcol h => cases chip <;> revert h <;> decide
  case monoStartline line => cases chip <;> revert line <;> decide
  case monoPagestart p => cases chip <;> revert p <;> decide
  case monoSegremap r => cases chip <;> cases r <;> rfl
  case monoComscan f => cases chip <;> cases f <;> rfl
  case monoSetPixelFormat f => cases f <;> rfl
  case colorSetPixelFormat f => cases f <;> rfl
  case monoSetOrientation o => cases o <;> rfl
  case colorSetOrientation o => cases o <;> rfl
  case monoWrite x y d pix => exact decodeWrite_writeBytes .mono x y d pix
  case colorWrite x y d pix => exact decodeWrite_writeBytes .color x y d pix
  case monoDcdc a => cases chip <;> first | rfl | contradiction
  case monoIref a => cases chip <;> first | rfl | contradiction
  case monoData px => cases px <;> first | rfl | contradiction
  case colorData px => cases px <;> first | rfl | contradiction
  case colorCaset a b => exact takeBounds_be16 .colorCaset a b
  case colorRaset a b => exact takeBounds_be16 .colorRaset a b
  all_goals rfl

/-! ## What a decoded request spells -/

theorem nullary_ok {i j : Instr} {args : List Byte} (h : nullary i args = .ok j) : args = [] ∧ j = i := by
  cases args with
  | nil => exact ⟨rfl, (Except.ok.inj h).symm⟩
  | cons a as => contradiction

theorem unary_ok {f : Byte → Except DecodeError Instr} {j : Instr} {args : List Byte} (h : unary f args = .ok j) :
    ∃ a, args = [a] ∧ f a = .ok j := by
  unfold unary at h
  split at h
  · exact ⟨_, rfl, h⟩
  · contradiction

theorem map_ok {α : Type} {x : Except DecodeError α} {f : α → Instr} {j : Instr} (h : x.map f = .ok j) :
    ∃ a, x = .ok a ∧ j = f a := by
  cases x with
  | ok a => exact ⟨a, rfl, (Except.ok.inj h).symm⟩
  | error e => contradiction

theorem decodeFormat_ok {c : Byte} {f : Format} (h : decodeFormat c = .ok f) : c = f.code := by
  rcases ite_eq_iff.1 h with ⟨rfl, h⟩ | ⟨-, h⟩
  · obtain rfl := Except.ok.inj h; rfl
  rcases ite_eq_iff.1 h with ⟨rfl, h⟩ | ⟨-, h⟩
  · obtain rfl := Except.ok.inj h; rfl
  rcases ite_eq_iff.1 h with ⟨rfl, h⟩ | ⟨-, h⟩
  · obtain rfl := Except.ok.inj h; rfl
  rcases ite_eq_iff.1 h with ⟨rfl, h⟩ | ⟨-, h⟩
  · obtain rfl := Except.ok.inj h; rfl
  contradiction

theorem decodeOrientation_ok {c : Byte} {o : Orientation} (h : decodeOrientation c = .ok o) : c = o.code := by
  rcases ite_eq_iff.1 h with ⟨rfl, h⟩ | ⟨-, h⟩
  · obtain rfl := Except.ok.inj h; rfl
  rcases ite_eq_iff.1 h with ⟨rfl, h⟩ | ⟨-, h⟩
  · obtain rfl := Except.ok.inj h; rfl
  rcases ite_eq_iff.1 h with ⟨rfl, h⟩ | ⟨-, h⟩
  · obtain rfl := Except.ok.inj h; rfl
  rcases ite_eq_iff.1 h with ⟨rfl, h⟩ | ⟨-, h⟩
  · obtain rfl := Except.ok.inj h; rfl
  contradiction

/-- A request is spelled by an instruction that is well formed for a chip. -/
def Spells (chip : Chip) (r : Request) (i : Instr) : Prop := encode i = r ∧ i.wellFormed chip = true

theorem decodeWrite_spells {chip : Chip} {u : UnitKind} {args : List Byte} {i : Instr}
    (h : decodeWrite u args = .ok i) : Spells chip (hostRequest u 0x02 args) i := by
  unfold decodeWrite at h
  split at h
  · obtain rfl := Except.ok.inj h
    have hbytes : ∀ x1 x0 y1 y0 w1 w0 h1 h0 p1 p0 s3 s2 s1 s0 : Byte, ∀ pix : List Byte,
        writeBytes (ofBe16 x1 x0) (ofBe16 y1 y0) ⟨ofBe16 w1 w0, ofBe16 h1 h0, ofBe16 p1 p0, ofBe32 s3 s2 s1 s0⟩ pix =
          x1 :: x0 :: y1 :: y0 :: w1 :: w0 :: h1 :: h0 :: p1 :: p0 :: s3 :: s2 :: s1 :: s0 :: pix := by
      intros
      simp only [writeBytes, be16_ofBe16, be32_ofBe32, List.cons_append, List.nil_append]
    cases u
    · exact ⟨congrArg (hostRequest .mono 0x02) (hbytes ..), rfl⟩
    · exact ⟨congrArg (hostRequest .color 0x02) (hbytes ..), rfl⟩
  · contradiction

/-- A nullary row of both units. -/
theorem nullary_spells {chip : Chip} {u : UnitKind} {op : Byte} {args : List Byte} {m c i : Instr}
    (h : nullary (byUnit u m c) args = .ok i) (hm : Spells chip (hostRequest .mono op []) m)
    (hc : Spells chip (hostRequest .color op []) c) : Spells chip (hostRequest u op args) i := by
  obtain ⟨rfl, rfl⟩ := nullary_ok h
  cases u
  · exact hm
  · exact hc

/-- A row of both units with one operand byte, which a decoder reads. -/
theorem unary_spells {α : Type} {chip : Chip} {u : UnitKind} {op : Byte} {args : List Byte} {i : Instr}
    {dec : Byte → Except DecodeError α} {code : α → Byte} {m c : α → Instr}
    (h : unary (fun a => (dec a).map fun x => byUnit u (m x) (c x)) args = .ok i)
    (hdec : ∀ a x, dec a = .ok x → a = code x) (hm : ∀ x, Spells chip (hostRequest .mono op [code x]) (m x))
    (hc : ∀ x, Spells chip (hostRequest .color op [code x]) (c x)) : Spells chip (hostRequest u op args) i := by
  obtain ⟨a, rfl, ha⟩ := unary_ok h
  obtain ⟨x, hx, rfl⟩ := map_ok ha
  rw [hdec a x hx]
  cases u
  · exact hm x
  · exact hc x

/-- The rows of the HOST space (R152). -/
theorem decodeHostOp_spells {chip : Chip} {u : UnitKind} {op : Byte} {args : List Byte} {i : Instr}
    (h : decodeHostOp u op args = .ok i) : Spells chip (hostRequest u op args) i := by
  rcases ite_eq_iff.1 h with ⟨rfl, h⟩ | ⟨-, h⟩
  · exact nullary_spells h ⟨rfl, rfl⟩ ⟨rfl, rfl⟩
  rcases ite_eq_iff.1 h with ⟨rfl, h⟩ | ⟨-, h⟩
  · exact decodeWrite_spells h
  rcases ite_eq_iff.1 h with ⟨rfl, h⟩ | ⟨-, h⟩
  · obtain ⟨v, rfl, hv⟩ := unary_ok h
    obtain rfl := Except.ok.inj hv
    cases u <;> exact ⟨rfl, rfl⟩
  rcases ite_eq_iff.1 h with ⟨rfl, h⟩ | ⟨-, h⟩
  · exact unary_spells h (fun _ _ => decodeFormat_ok) (fun f => ⟨rfl, rfl⟩) fun f => ⟨rfl, rfl⟩
  rcases ite_eq_iff.1 h with ⟨rfl, h⟩ | ⟨-, h⟩
  · exact nullary_spells h ⟨rfl, rfl⟩ ⟨rfl, rfl⟩
  rcases ite_eq_iff.1 h with ⟨rfl, h⟩ | ⟨-, h⟩
  · exact nullary_spells h ⟨rfl, rfl⟩ ⟨rfl, rfl⟩
  rcases ite_eq_iff.1 h with ⟨rfl, h⟩ | ⟨-, h⟩
  · exact nullary_spells h ⟨rfl, rfl⟩ ⟨rfl, rfl⟩
  rcases ite_eq_iff.1 h with ⟨rfl, h⟩ | ⟨-, h⟩
  · obtain ⟨v, rfl, hv⟩ := unary_ok h
    obtain rfl := Except.ok.inj hv
    cases u <;> exact ⟨rfl, rfl⟩
  rcases ite_eq_iff.1 h with ⟨rfl, h⟩ | ⟨-, h⟩
  · exact unary_spells h (fun _ _ => decodeOrientation_ok) (fun o => ⟨rfl, rfl⟩) fun o => ⟨rfl, rfl⟩
  rcases ite_eq_iff.1 h with ⟨rfl, h⟩ | ⟨-, h⟩
  · exact nullary_spells h ⟨rfl, rfl⟩ ⟨rfl, rfl⟩
  rcases ite_eq_iff.1 h with ⟨rfl, h⟩ | ⟨-, h⟩
  · exact nullary_spells h ⟨rfl, rfl⟩ ⟨rfl, rfl⟩
  rcases ite_eq_iff.1 h with ⟨rfl, h⟩ | ⟨-, h⟩
  · obtain rfl := Except.ok.inj h
    cases u <;> exact ⟨rfl, rfl⟩
  contradiction

/-! ## MONO commands -/

/-- The front of a stream that one MONO instruction spells, as long as its first byte tells (R157). -/
def MonoSpells (chip : Chip) (b : Byte) (args : List Byte) (i : Instr) : Prop :=
  Spells chip (monoRequest (b :: args)) i ∧ args.length + 1 = monoCmdLen b

theorem takeArg_some {f : Byte → Instr} {rest rest' : List Byte} {i : Instr} (h : takeArg f rest = some (i, rest')) :
    ∃ a, rest = a :: rest' ∧ i = f a := by
  cases rest with
  | nil => contradiction
  | cons a rest =>
    obtain ⟨rfl, rfl⟩ := Prod.mk.inj (Option.some.inj h)
    exact ⟨a, rfl, rfl⟩

theorem takeArgs_some {f : Byte → Byte → Instr} {rest rest' : List Byte} {i : Instr}
    (h : takeArgs f rest = some (i, rest')) : ∃ a b, rest = a :: b :: rest' ∧ i = f a b := by
  unfold takeArgs at h
  split at h
  · obtain ⟨rfl, rfl⟩ := Prod.mk.inj (Option.some.inj h)
    exact ⟨_, _, rfl, rfl⟩
  · contradiction

/-- A row without arguments. -/
theorem bare_spells {chip : Chip} {b : Byte} {rest rest' : List Byte} {i j : Instr}
    (h : some (j, rest) = some (i, rest')) (hj : MonoSpells chip b [] j) :
    ∃ args, rest = args ++ rest' ∧ MonoSpells chip b args i := by
  obtain ⟨rfl, rfl⟩ := Prod.mk.inj (Option.some.inj h)
  exact ⟨[], rfl, hj⟩

/-- A row with one argument byte. -/
theorem takeArg_spells {chip : Chip} {b : Byte} {f : Byte → Instr} {rest rest' : List Byte} {i : Instr}
    (h : takeArg f rest = some (i, rest')) (hf : ∀ a, MonoSpells chip b [a] (f a)) :
    ∃ args, rest = args ++ rest' ∧ MonoSpells chip b args i := by
  obtain ⟨a, rfl, rfl⟩ := takeArg_some h
  exact ⟨[a], rfl, hf a⟩

/-- A row with two argument bytes. -/
theorem takeArgs_spells {chip : Chip} {b : Byte} {f : Byte → Byte → Instr} {rest rest' : List Byte} {i : Instr}
    (h : takeArgs f rest = some (i, rest')) (hf : ∀ a c, MonoSpells chip b [a, c] (f a c)) :
    ∃ args, rest = args ++ rest' ∧ MonoSpells chip b args i := by
  obtain ⟨a, c, rfl, rfl⟩ := takeArgs_some h
  exact ⟨[a, c], rfl, hf a c⟩

/-- The rows whose fields lie in the opcode byte (R163, R165): the field and the opcode make the byte again. -/
theorem fieldBytes :
    (∀ b : Byte, b &&& 0xF0 = 0x00 → lowcolByte .spec (b.setWidth 4) = b ∧ monoCmdLen b = 1) ∧
    (∀ b : Byte, b &&& 0xF0 = 0x10 → highcolByte .spec (b.setWidth 4) = b ∧ monoCmdLen b = 1) ∧
    (∀ b : Byte, b &&& 0xC0 = 0x40 → startlineByte .spec (b.setWidth 6) = b ∧ monoCmdLen b = 1) ∧
    (∀ b : Byte, b &&& 0xFE = 0xA0 → segremapByte .spec (b.getLsbD 0) = b ∧ monoCmdLen b = 1) ∧
    (∀ b : Byte, b &&& 0xF8 = 0xB0 → pagestartByte .spec (b.setWidth 3) = b ∧ monoCmdLen b = 1) ∧
    (∀ b : Byte, b &&& 0xF7 = 0xC0 → comscanByte .spec (b.getLsbD 3) = b ∧ monoCmdLen b = 1) := by
  refine ⟨?_, ?_, ?_, ?_, ?_, ?_⟩ <;> decide

/-- A row whose field lies in the opcode byte. -/
theorem field_spells {chip : Chip} {b : Byte} {i : Instr} {byte : Byte} (henc : encode i = monoRequest [byte])
    (hwf : i.wellFormed chip = true) (h : byte = b ∧ monoCmdLen b = 1) : MonoSpells chip b [] i := by
  obtain ⟨rfl, hlen⟩ := h
  exact ⟨⟨henc, hwf⟩, hlen.symm⟩

/-- What the MONO command decoder takes from a stream is the one spelling of the instruction it gives. -/
theorem decodeMonoByte_spells {chip : Chip} {b : Byte} {rest rest' : List Byte} {i : Instr}
    (h : decodeMonoByte chip b rest = some (i, rest')) :
    ∃ args, rest = args ++ rest' ∧ MonoSpells chip b args i := by
  obtain ⟨hlow, hhigh, hline, hremap, hpage, hscan⟩ := fieldBytes
  rcases ite_eq_iff.1 h with ⟨hb, h⟩ | ⟨-, h⟩
  · exact bare_spells h (field_spells rfl rfl (hlow b hb))
  rcases ite_eq_iff.1 h with ⟨hb, h⟩ | ⟨-, h⟩
  · exact bare_spells h (field_spells rfl rfl (hhigh b hb))
  rcases ite_eq_iff.1 h with ⟨hb, h⟩ | ⟨-, h⟩
  · exact bare_spells h (field_spells rfl rfl (hline b hb))
  rcases ite_eq_iff.1 h with ⟨hb, h⟩ | ⟨-, h⟩
  · exact bare_spells h (field_spells rfl rfl (hremap b hb))
  rcases ite_eq_iff.1 h with ⟨hb, h⟩ | ⟨-, h⟩
  · exact bare_spells h (field_spells rfl rfl (hpage b hb))
  rcases ite_eq_iff.1 h with ⟨hb, h⟩ | ⟨-, h⟩
  · exact bare_spells h (field_spells rfl rfl (hscan b hb))
  rcases ite_eq_iff.1 h with ⟨rfl, h⟩ | ⟨-, h⟩
  · exact takeArgs_spells h fun _ _ => ⟨⟨rfl, rfl⟩, rfl⟩
  rcases ite_eq_iff.1 h with ⟨rfl, h⟩ | ⟨-, h⟩
  · exact takeArgs_spells h fun _ _ => ⟨⟨rfl, rfl⟩, rfl⟩
  rcases ite_eq_iff.1 h with ⟨rfl, h⟩ | ⟨-, h⟩
  · exact takeArg_spells h fun _ => ⟨⟨rfl, rfl⟩, rfl⟩
  rcases ite_eq_iff.1 h with ⟨rfl, h⟩ | ⟨-, h⟩
  · exact takeArg_spells h fun _ => ⟨⟨rfl, rfl⟩, rfl⟩
  rcases ite_eq_iff.1 h with ⟨rfl, h⟩ | ⟨-, h⟩
  · exact takeArg_spells h fun _ => ⟨⟨rfl, rfl⟩, rfl⟩
  rcases ite_eq_iff.1 h with ⟨rfl, h⟩ | ⟨-, h⟩
  · exact takeArg_spells h fun _ => ⟨⟨rfl, rfl⟩, rfl⟩
  rcases ite_eq_iff.1 h with ⟨rfl, h⟩ | ⟨-, h⟩
  · exact takeArg_spells h fun _ => ⟨⟨rfl, rfl⟩, rfl⟩
  rcases ite_eq_iff.1 h with ⟨rfl, h⟩ | ⟨-, h⟩
  · exact takeArg_spells h fun _ => ⟨⟨rfl, rfl⟩, rfl⟩
  rcases ite_eq_iff.1 h with ⟨rfl, h⟩ | ⟨-, h⟩
  · exact takeArg_spells h fun _ => ⟨⟨rfl, rfl⟩, rfl⟩
  rcases ite_eq_iff.1 h with ⟨rfl, h⟩ | ⟨-, h⟩
  · exact takeArg_spells h fun _ => ⟨⟨rfl, rfl⟩, rfl⟩
  rcases ite_eq_iff.1 h with ⟨rfl, h⟩ | ⟨-, h⟩
  · exact takeArg_spells h fun _ => ⟨⟨rfl, rfl⟩, rfl⟩
  rcases ite_eq_iff.1 h with ⟨rfl, h⟩ | ⟨-, h⟩
  · refine takeArg_spells h fun _ => ?_
    cases chip <;> exact ⟨⟨rfl, rfl⟩, rfl⟩
  rcases ite_eq_iff.1 h with ⟨rfl, h⟩ | ⟨-, h⟩
  · exact bare_spells h ⟨⟨rfl, rfl⟩, rfl⟩
  rcases ite_eq_iff.1 h with ⟨rfl, h⟩ | ⟨-, h⟩
  · exact bare_spells h ⟨⟨rfl, rfl⟩, rfl⟩
  rcases ite_eq_iff.1 h with ⟨rfl, h⟩ | ⟨-, h⟩
  · exact bare_spells h ⟨⟨rfl, rfl⟩, rfl⟩
  rcases ite_eq_iff.1 h with ⟨rfl, h⟩ | ⟨-, h⟩
  · exact bare_spells h ⟨⟨rfl, rfl⟩, rfl⟩
  contradiction

/-- Settles O4: the length part of `decodeMonoByte_spells`. -/
theorem monoCommandLengths : Obligations.MonoCommandLengths := by
  intro chip b rest rest' i h
  obtain ⟨args, hrest, -, hlen⟩ := decodeMonoByte_spells h
  exact ⟨args, hrest, hlen⟩

theorem decodeMonoWhole_spells {chip : Chip} {bytes : List Byte} {i : Instr} (h : decodeMonoWhole chip bytes = .ok i) :
    Spells chip (monoRequest bytes) i := by
  unfold decodeMonoWhole at h
  split at h
  · contradiction
  · split at h
    · next heq =>
      obtain rfl := Except.ok.inj h
      obtain ⟨args, hrest, hspells, -⟩ := decodeMonoByte_spells heq
      rw [List.append_nil] at hrest
      rwa [hrest]
    · contradiction
    · contradiction

/-! ## COLOR commands -/

/-- A COLOR row without parameters. -/
theorem nullary_colorSpells {chip : Chip} {op : Byte} {ps : List Byte} {i j : Instr} (h : nullary j ps = .ok i)
    (hj : Spells chip (colorRequest op []) j) : Spells chip (colorRequest op ps) i := by
  obtain ⟨rfl, rfl⟩ := nullary_ok h
  exact hj

/-- A COLOR row with one parameter byte. -/
theorem unary_colorSpells {chip : Chip} {op : Byte} {ps : List Byte} {i : Instr} {f : Byte → Instr}
    (h : unary (fun a => .ok (f a)) ps = .ok i) (hf : ∀ a, Spells chip (colorRequest op [a]) (f a)) :
    Spells chip (colorRequest op ps) i := by
  obtain ⟨a, rfl, ha⟩ := unary_ok h
  obtain rfl := Except.ok.inj ha
  exact hf a

/-- A COLOR row with a window's two bounds. -/
theorem takeBounds_spells {chip : Chip} {op : Byte} {ps : List Byte} {i : Instr} {f : Half → Half → Instr}
    (h : takeBounds f ps = .ok i) (hf : ∀ a b, Spells chip (colorRequest op (be16 a ++ be16 b)) (f a b)) :
    Spells chip (colorRequest op ps) i := by
  unfold takeBounds at h
  split at h
  · next a1 a0 b1 b0 =>
    obtain rfl := Except.ok.inj h
    have hspells := hf (ofBe16 a1 a0) (ofBe16 b1 b0)
    rwa [be16_ofBe16, be16_ofBe16] at hspells
  · contradiction

/-- A COLOR row with a parameter string. -/
theorem string_colorSpells {chip : Chip} {op : Byte} {ps : List Byte} {i j : Instr}
    (h : Except.ok j = (.ok i : Except DecodeError Instr))
    (hj : Spells chip (colorRequest op ps) j) : Spells chip (colorRequest op ps) i := by
  obtain rfl := Except.ok.inj h
  exact hj

/-- The rows of the COLOR command space (R161). -/
theorem decodeColorByte_spells {chip : Chip} {op : Byte} {ps : List Byte} {i : Instr}
    (h : decodeColorByte op ps = .ok i) : Spells chip (colorRequest op ps) i := by
  rcases ite_eq_iff.1 h with ⟨rfl, h⟩ | ⟨-, h⟩
  · exact nullary_colorSpells h ⟨rfl, rfl⟩
  rcases ite_eq_iff.1 h with ⟨rfl, h⟩ | ⟨-, h⟩
  · exact nullary_colorSpells h ⟨rfl, rfl⟩
  rcases ite_eq_iff.1 h with ⟨rfl, h⟩ | ⟨-, h⟩
  · exact nullary_colorSpells h ⟨rfl, rfl⟩
  rcases ite_eq_iff.1 h with ⟨rfl, h⟩ | ⟨-, h⟩
  · exact nullary_colorSpells h ⟨rfl, rfl⟩
  rcases ite_eq_iff.1 h with ⟨rfl, h⟩ | ⟨-, h⟩
  · exact nullary_colorSpells h ⟨rfl, rfl⟩
  rcases ite_eq_iff.1 h with ⟨rfl, h⟩ | ⟨-, h⟩
  · exact unary_colorSpells h fun _ => ⟨rfl, rfl⟩
  rcases ite_eq_iff.1 h with ⟨rfl, h⟩ | ⟨-, h⟩
  · exact nullary_colorSpells h ⟨rfl, rfl⟩
  rcases ite_eq_iff.1 h with ⟨rfl, h⟩ | ⟨-, h⟩
  · exact nullary_colorSpells h ⟨rfl, rfl⟩
  rcases ite_eq_iff.1 h with ⟨rfl, h⟩ | ⟨-, h⟩
  · exact takeBounds_spells h fun _ _ => ⟨rfl, rfl⟩
  rcases ite_eq_iff.1 h with ⟨rfl, h⟩ | ⟨-, h⟩
  · exact takeBounds_spells h fun _ _ => ⟨rfl, rfl⟩
  rcases ite_eq_iff.1 h with ⟨rfl, h⟩ | ⟨-, h⟩
  · exact nullary_colorSpells h ⟨rfl, rfl⟩
  rcases ite_eq_iff.1 h with ⟨rfl, h⟩ | ⟨-, h⟩
  · exact unary_colorSpells h fun _ => ⟨rfl, rfl⟩
  rcases ite_eq_iff.1 h with ⟨rfl, h⟩ | ⟨-, h⟩
  · exact unary_colorSpells h fun _ => ⟨rfl, rfl⟩
  rcases ite_eq_iff.1 h with ⟨rfl, h⟩ | ⟨-, h⟩
  · exact string_colorSpells h ⟨rfl, rfl⟩
  rcases ite_eq_iff.1 h with ⟨rfl, h⟩ | ⟨-, h⟩
  · exact string_colorSpells h ⟨rfl, rfl⟩
  rcases ite_eq_iff.1 h with ⟨rfl, h⟩ | ⟨-, h⟩
  · exact string_colorSpells h ⟨rfl, rfl⟩
  rcases ite_eq_iff.1 h with ⟨rfl, h⟩ | ⟨-, h⟩
  · exact unary_colorSpells h fun _ => ⟨rfl, rfl⟩
  rcases ite_eq_iff.1 h with ⟨rfl, h⟩ | ⟨-, h⟩
  · exact unary_colorSpells h fun _ => ⟨rfl, rfl⟩
  rcases ite_eq_iff.1 h with ⟨rfl, h⟩ | ⟨-, h⟩
  · exact unary_colorSpells h fun _ => ⟨rfl, rfl⟩
  rcases ite_eq_iff.1 h with ⟨rfl, h⟩ | ⟨-, h⟩
  · exact unary_colorSpells h fun _ => ⟨rfl, rfl⟩
  rcases ite_eq_iff.1 h with ⟨rfl, h⟩ | ⟨-, h⟩
  · exact unary_colorSpells h fun _ => ⟨rfl, rfl⟩
  rcases ite_eq_iff.1 h with ⟨rfl, h⟩ | ⟨-, h⟩
  · exact unary_colorSpells h fun _ => ⟨rfl, rfl⟩
  rcases ite_eq_iff.1 h with ⟨rfl, h⟩ | ⟨-, h⟩
  · exact unary_colorSpells h fun _ => ⟨rfl, rfl⟩
  rcases ite_eq_iff.1 h with ⟨rfl, h⟩ | ⟨-, h⟩
  · exact unary_colorSpells h fun _ => ⟨rfl, rfl⟩
  rcases ite_eq_iff.1 h with ⟨rfl, h⟩ | ⟨-, h⟩
  · exact string_colorSpells h ⟨rfl, rfl⟩
  rcases ite_eq_iff.1 h with ⟨rfl, h⟩ | ⟨-, h⟩
  · exact string_colorSpells h ⟨rfl, rfl⟩
  rcases ite_eq_iff.1 h with ⟨rfl, h⟩ | ⟨-, h⟩
  · exact string_colorSpells h ⟨rfl, rfl⟩
  rcases ite_eq_iff.1 h with ⟨rfl, h⟩ | ⟨-, h⟩
  · exact string_colorSpells h ⟨rfl, rfl⟩
  contradiction

/-- Settles O2: each port's rows are spelled back (`decodeHostOp_spells`, `decodeMonoWhole_spells`,
`decodeColorByte_spells`). -/
theorem encodeOfDecode : Obligations.EncodeOfDecode := by
  rintro chip ⟨port, bytes⟩ i h
  cases port with
  | host u =>
    cases bytes with
    | nil => contradiction
    | cons op args => exact decodeHostOp_spells h
  | cmd u =>
    cases u with
    | mono => exact decodeMonoWhole_spells h
    | color =>
      cases bytes with
      | nil => contradiction
      | cons op ps => exact decodeColorByte_spells h
  | data u =>
    cases bytes with
    | nil => contradiction
    | cons b bs =>
      obtain rfl := Except.ok.inj h
      cases u <;> exact ⟨rfl, rfl⟩
  | param =>
    obtain ⟨hnil, rfl⟩ := nullary_ok h
    obtain rfl : bytes = [] := hnil
    exact ⟨rfl, rfl⟩

/-! ## Refused codes, words written out -/

/-- The op codes of the HOST space are 0x01 to 0x0C (R152, R154). -/
theorem undefined_hostOp {op : Byte} (h : op = 0 ∨ 12 < op.toNat) (u : UnitKind) (args : List Byte) :
    decodeHostOp u op args = .error (.undefinedHostOp op) := by
  have hne : ∀ c : Byte, 1 ≤ c.toNat → c.toNat ≤ 12 → op ≠ c := by
    rintro c h1 h12 rfl
    rcases h with rfl | h
    · contradiction
    · omega
  unfold decodeHostOp
  rw [if_neg (hne 1 (by decide) (by decide)), if_neg (hne 2 (by decide) (by decide)),
    if_neg (hne 3 (by decide) (by decide)), if_neg (hne 4 (by decide) (by decide)),
    if_neg (hne 5 (by decide) (by decide)), if_neg (hne 6 (by decide) (by decide)),
    if_neg (hne 7 (by decide) (by decide)), if_neg (hne 8 (by decide) (by decide)),
    if_neg (hne 9 (by decide) (by decide)), if_neg (hne 10 (by decide) (by decide)),
    if_neg (hne 11 (by decide) (by decide)), if_neg (hne 12 (by decide) (by decide))]

/-- The codes of formats and orientations are 0 to 3 (R153). -/
theorem undefined_code {c : Byte} (h : 4 ≤ c.toNat) :
    decodeFormat c = .error (.undefinedFormat c) ∧ decodeOrientation c = .error (.undefinedOrientation c) := by
  have h0 : c ≠ 0 := by rintro rfl; contradiction
  have h1 : c ≠ 1 := by rintro rfl; contradiction
  have h2 : c ≠ 2 := by rintro rfl; contradiction
  have h3 : c ≠ 3 := by rintro rfl; contradiction
  unfold decodeFormat decodeOrientation
  rw [if_neg h0, if_neg h1, if_neg h2, if_neg h3]
  exact ⟨rfl, by rw [if_neg h0, if_neg h1, if_neg h2, if_neg h3]⟩

/-- Settles O3: the codes no row has. -/
theorem undefinedCodesRefused : Obligations.UndefinedCodesRefused := by
  refine ⟨fun chip u op args h => undefined_hostOp h u args, fun chip u c h => ?_⟩
  obtain ⟨hformat, horientation⟩ := undefined_code h
  refine ⟨?_, ?_⟩
  · change (decodeFormat c).map _ = _
    rw [hformat]
    rfl
  · change (decodeOrientation c).map _ = _
    rw [horientation]
    rfl

/-- Settles O5: each word by its row. -/
theorem writtenOutWordsDecode : Obligations.WrittenOutWordsDecode :=
  ⟨rfl, rfl, rfl, rfl, rfl, rfl, rfl⟩

end Sys2Proof

/-!
PROOFS. Construction and reset, the phase gate, and the operations of both units that send at most a command or two.
-/

namespace Sys2Proof.Machine

/-! ## Construction and reset -/

theorem monoCfgOk_iff (m : MonoCfg) : monoCfgOk m = true ↔ 1 ≤ m.width.toNat ∧
    m.width.toNat + m.segmentOffset.toNat ≤ 256 ∧ 8 ≤ m.height.toNat ∧ m.height.toNat ≤ 64 ∧
    m.height.toNat % 8 = 0 := by
  simp [monoCfgOk, and_assoc]

theorem pwmOk_iff (h : Option PwmHandle) : pwmOk h = true ↔ ∀ p, h = some p → p.period * 255 < 2 ^ 32 := by
  cases h <;> simp [pwmOk]

theorem colorCfgOk_iff (k : Consts) (c : ColorCfg) : colorCfgOk k c = true ↔ 1 ≤ c.width.toNat ∧ 1 ≤ c.height.toNat ∧
    1 ≤ k.fillChunkRows ∧ c.width.toNat * k.fillChunkRows * c.pixelFormat.bytes ≤ k.fillBufBytes ∧
    ∀ h, c.blPwm = some h → h.period * 255 < 2 ^ 32 := by
  rw [← pwmOk_iff]
  simp [colorCfgOk, and_assoc]

/-- Settles O7: the two checks of `construct`, read as the spec's bounds. -/
theorem constructionAdmitsWellFormed : Obligations.ConstructionAdmitsWellFormed := by
  intro b
  dsimp only
  rw [← monoCfgOk_iff, ← colorCfgOk_iff]
  unfold construct
  refine ⟨fun hm hc => ?_, fun hm => ?_, fun hm hc => ?_⟩
  · simp [hm, hc]
  · simp [hm]
  · simp [hm, hc]

/-- Settles O8. -/
theorem resetValues : Obligations.ResetValues := by
  rintro b s rfl
  refine ⟨rfl, ?_, rfl, rfl, rfl, rfl, rfl, rfl, rfl⟩
  change Regs.reset b.color.pixelFormat.toFormat = _
  cases b.color.pixelFormat <;> rfl

/-- Settles O9. -/
theorem invariantsAtReset : Obligations.InvariantsAtReset := by
  intro b
  refine ⟨⟨?mono, ?color⟩, ⟨rfl, rfl, rfl, rfl⟩, ⟨rfl, rfl, rfl, rfl⟩, noEmptyTransfer_nil, noEmptyTransfer_nil⟩
  case mono =>
    exact ⟨⟨rfl, rfl, rfl, rfl, rfl⟩, initialPf_mono b.mono, fun _ => rfl, fun h => by contradiction,
      ⟨rfl, rfl, rfl, rfl⟩, rfl⟩
  case color =>
    exact ⟨⟨rfl, rfl, rfl, rfl, rfl⟩, rfl, fun _ => ⟨rfl, rfl⟩, fun h => by contradiction, rfl,
      fun _ _ h => by contradiction, rfl⟩

/-! ## The phase gate (R507) -/

/-- Outside Ready a gated MONO operation only hands back DeviceNotReady. -/
theorem runMono_gated {s : State} (hidle : s.mono.regs.idle) (h : s.mono.regs.phase ≠ .ready) (p : Plan) :
    runMono false (gate s.mono.regs p) s = .next (s.answered .deviceNotReady) := by
  rw [gate_not_ready p h]
  exact runMono_raise hidle false _

/-- Outside Ready a gated COLOR operation only hands back DeviceNotReady. -/
theorem runColor_gated {s : State} (hidle : s.color.regs.idle) (h : s.color.regs.phase ≠ .ready) (p : Plan) :
    runColor false (gate s.color.regs p) s = .next (s.answered .deviceNotReady) := by
  rw [gate_not_ready p h]
  exact runColor_raise hidle false _

/-- Outside Ready set_brightness does not ask the PWM. -/
theorem exec_colorSetBrightness_not_ready {s : State} (hidle : s.color.regs.idle) (h : s.color.regs.phase ≠ .ready)
    (b : Byte) : exec (.colorSetBrightness b) s = .next (s.answered .deviceNotReady) := by
  change execColorSetBrightness b s = _
  rw [execColorSetBrightness_eq, if_neg (by simpa [Regs.isReady] using h)]
  exact runColor_gated hidle h _

/-- Settles O22: each of the operations is a plan behind the gate. -/
theorem gatedOperationsNeedReady : Obligations.GatedOperationsNeedReady := by
  refine ⟨fun s hidle h => ?_, fun s hidle h => ?_⟩
  · have hgated := runMono_gated hidle h
    exact ⟨fun _ _ _ _ => hgated _, fun _ => hgated _, fun _ => hgated _, fun _ => hgated _, hgated _, hgated _,
      hgated _, hgated _⟩
  · have hgated := runColor_gated hidle h
    exact ⟨fun _ _ _ _ => hgated _, exec_colorSetBrightness_not_ready hidle h, fun _ => hgated _, fun _ => hgated _,
      hgated _, hgated _, hgated _, hgated _, fun _ => hgated _⟩

/-- Settles O23: a plan without actions, behind no gate. -/
theorem unitRejectsOperations : Obligations.UnitRejectsOperations :=
  ⟨fun _ hidle => ⟨fun _ => runMono_raise hidle false _, fun _ => runMono_raise hidle false _⟩,
    fun _ hidle _ => runColor_raise hidle false _⟩

/-- Settles O35. -/
theorem capabilitiesReported : Obligations.CapabilitiesReported := ⟨fun _ => rfl, fun _ => rfl⟩

/-! ## Plans without actions -/

/-- A MONO plan that ends in Ok with no action only hands back Ok. -/
theorem runMono_none {s : State} (hidle : s.mono.regs.idle) : runMono false (.ok []) s = .next (s.answered .ok) :=
  runMono_raise hidle false .ok

theorem orientationPlan_eq (o : Orientation) :
    orientationPlan o = .raise (if o = .normal then .ok else .unsupportedOperation) := by
  unfold orientationPlan
  split <;> rfl

theorem colorPixelFormatPlan_eq (cfg : ColorCfg) (f : Format) :
    colorPixelFormatPlan cfg f = .raise (if f = cfg.pixelFormat.toFormat then .ok else .unsupportedOperation) := by
  unfold colorPixelFormatPlan
  split <;> rfl

/-- Settles O37: behind the gate, `orientationPlan` performs no action. -/
theorem onlyIdentityOrientation : Obligations.OnlyIdentityOrientation := by
  refine ⟨fun o s hidle hready => ?_, fun o s hidle hready => ?_⟩
  · change runMono false (gate s.mono.regs (orientationPlan o)) s = _
    rw [gate_ready _ hready, orientationPlan_eq]
    exact runMono_raise hidle false _
  · change runColor false (gate s.color.regs (orientationPlan o)) s = _
    rw [gate_ready _ hready, orientationPlan_eq]
    exact runColor_raise hidle false _

/-- Settles O45: behind the gate, `colorPixelFormatPlan` performs no action. -/
theorem colorOnlyCompiledFormat : Obligations.ColorOnlyCompiledFormat := by
  intro f s hidle hready
  change runColor false (gate s.color.regs (colorPixelFormatPlan s.ccfg f)) s = _
  rw [gate_ready _ hready, colorPixelFormatPlan_eq]
  exact runColor_raise hidle false _

/-! ## One command transfer -/

/-- A MONO plan of one command transfer and what its success writes, when it is taken. -/
theorem runMono_cmd {s : State} (hidle : s.mono.regs.idle) (htaken : s.mono.env.xfer.head = true) (bytes : List Byte)
    {ws : List Micro} (hws : ∀ m ∈ ws, m.within [] ∧ ∀ a n, m ≠ .send a n) (hnone : entriesOf [] ws = []) :
    runMono false (.ok (cmd bytes :: ws)) s = .next (s.monoDid [cmdE bytes] (lastingOf ws) .ok) := by
  have hentries : entriesOf [] (cmd bytes :: ws) = [cmdE bytes] := by rw [entriesOf_cons, hnone]; rfl
  have hrun := runMono_ok false (cmd bytes :: ws) .ok s hidle
    (List.forall_mem_cons.2 ⟨by simp [cmd, Micro.within], hws⟩)
    (by rw [hentries]; exact Env.okFor_one le_rfl htaken)
  rw [hentries] at hrun
  exact hrun

/-- The same transfer when it fails. -/
theorem runMono_cmd_fails {s : State} (hidle : s.mono.regs.idle) (hfails : s.mono.env.xfer.head = false)
    (bytes : List Byte) (ws : List Micro) :
    runMono false (.ok (cmd bytes :: ws)) s = .next (s.monoDid [⟨.xfer .cmd bytes, false⟩]
      (fun q => { q with indeterminate := true }) .busTransferFailure) := by
  have hrun := runPlan_failsAt s.monoSink false [] ws .cmd bytes (.result .ok) s.mono hidle (by simp)
    (Env.okFor_none rfl) ((Draw.answer_zero _).trans hfails)
  exact runMono_of_done hrun

theorem monoPixelFormatPlan_color (op : MonoOps) (pf : Format) {f : Format} (h : f = .rgb565 ∨ f = .rgb888) :
    monoPixelFormatPlan op pf f = .raise .unsupportedOperation := by
  rcases h with rfl | rfl <;> rfl

theorem monoPixelFormatPlan_same (op : MonoOps) {f : Format} (h : isMonoFormat f = true) :
    monoPixelFormatPlan op f f = .ok [] := by
  simp [monoPixelFormatPlan, h]

theorem monoPixelFormatPlan_other (op : MonoOps) {pf f : Format} (h : isMonoFormat f = true) (hne : f ≠ pf) :
    monoPixelFormatPlan op pf f = .ok [cmd [polarityByte op f], .set (.pf f)] := by
  simp [monoPixelFormatPlan, h, hne]

theorem isMonoFormat_iff (f : Format) : isMonoFormat f = true ↔ f = .monoNormal ∨ f = .monoInverted := by
  cases f <;> decide

/-- MONO set_pixel_format in Ready (R218). -/
theorem exec_monoSetPixelFormat_ready {s : State} (f : Format) (hready : s.mono.regs.phase = .ready) :
    exec (.monoSetPixelFormat f) s = runMono false (monoPixelFormatPlan s.mop s.mono.regs.pf f) s := by
  change runMono false (gate s.mono.regs _) s = _
  rw [gate_ready _ hready]

/-- Settles O33: the three branches of `monoPixelFormatPlan`, and the two ends of its transfer. -/
theorem monoSetPixelFormatSwitches : Obligations.MonoSetPixelFormatSwitches := by
  intro f s hidle hready
  rw [exec_monoSetPixelFormat_ready f hready]
  refine ⟨fun hf => ?_, fun hf => ⟨fun hsame => ?_, fun hne htaken => ?_, fun hne hfails => ?_⟩⟩
  · rw [monoPixelFormatPlan_color _ _ hf]
    exact runMono_raise hidle false _
  · rw [← hsame, monoPixelFormatPlan_same _ ((isMonoFormat_iff f).2 hf)]
    exact runMono_none hidle
  · rw [monoPixelFormatPlan_other _ ((isMonoFormat_iff f).2 hf) hne]
    exact runMono_cmd hidle htaken _ (by simp [Micro.within]) rfl
  · rw [monoPixelFormatPlan_other _ ((isMonoFormat_iff f).2 hf) hne]
    exact runMono_cmd_fails hidle hfails _ _

/-- A successful MONO set_pixel_format leaves the unit in Ready, between operations, with that polarity. -/
theorem exec_monoSetPixelFormat_ok {f : Format} {s t : State} (hidle : s.mono.regs.idle)
    (h : exec (.monoSetPixelFormat f) s = .next t) (hok : t.answer = some (.result .ok)) :
    t.mono.regs.idle ∧ t.mono.regs.phase = .ready ∧ t.mono.regs.pf = f ∧ isMonoFormat f = true := by
  have hready : s.mono.regs.phase = .ready := by
    by_contra hnot
    obtain rfl := Host.Outcome.next.inj ((runMono_gated hidle hnot _).symm.trans h)
    simp [State.answered] at hok
  obtain ⟨hcolor, hmono⟩ := monoSetPixelFormatSwitches f s hidle hready
  have hformat : f = .monoNormal ∨ f = .monoInverted := by
    by_contra hnot
    obtain rfl := Host.Outcome.next.inj ((hcolor (by cases f <;> simp_all)).symm.trans h)
    simp [State.answered] at hok
  obtain ⟨hsame, hsent, hfailed⟩ := hmono hformat
  have hpolarity := (isMonoFormat_iff f).2 hformat
  by_cases hpf : f = s.mono.regs.pf
  · obtain rfl := Host.Outcome.next.inj ((hsame hpf).symm.trans h)
    exact ⟨hidle, hready, hpf.symm, hpolarity⟩
  · cases hhead : s.mono.env.xfer.head with
    | true =>
      obtain rfl := Host.Outcome.next.inj ((hsent hpf hhead).symm.trans h)
      exact ⟨hidle, hready, rfl, hpolarity⟩
    | false =>
      obtain rfl := Host.Outcome.next.inj ((hfailed hpf hhead).symm.trans h)
      simp [State.monoDid] at hok

/-- Settles O34: after a success the format asked for is the current one, which sends nothing. -/
theorem monoPixelFormatIdempotent : Obligations.MonoPixelFormatIdempotent := by
  intro f s t hidle h hok
  obtain ⟨hidle', hready, hpf, hpolarity⟩ := exec_monoSetPixelFormat_ok hidle h hok
  rw [exec_monoSetPixelFormat_ready f hready, hpf, monoPixelFormatPlan_same _ hpolarity, runMono_none hidle',
    State.answered, ← hok]

/-- MONO display-off, with or without a supply gate (R220). -/
theorem runMono_displayOff {s : State} (hidle : s.mono.regs.idle) (htaken : s.mono.env.xfer.head = true) :
    runMono false (.ok (monoDisplayOff s.mop s.mcfg)) s = .next (s.monoDid
      (cmdE [s.mop.dispoff] :: if s.mcfg.supplyGpio.isSome then [gpioE .supply .deasserted] else [])
      (fun q => { q with
        dispOn := some false,
        supplyLine := if s.mcfg.supplyGpio.isSome then some .deasserted else q.supplyLine }) .ok) := by
  have hreads : ∀ m ∈ monoDisplayOff s.mop s.mcfg, m.within [] ∧ ∀ a n, m ≠ .send a n :=
    fun m hm => Micro.reads_nothing_of_plainMono (monoDisplayOff_plain _ _ m hm)
  unfold monoDisplayOff supplyOff at hreads ⊢
  split at hreads
  · next hsupply =>
    simp only [if_pos hsupply]
    exact runMono_ok false _ .ok s hidle hreads (Env.okFor_one le_rfl htaken)
  · next hsupply =>
    simp only [if_neg hsupply]
    exact runMono_ok false _ .ok s hidle hreads (Env.okFor_one le_rfl htaken)

/-- MONO display-on, with or without a supply gate (R221). -/
theorem runMono_displayOn {s : State} (hidle : s.mono.regs.idle) (htaken : s.mono.env.xfer.head = true) :
    runMono false (.ok (monoDisplayOn s.mop s.mcfg)) s = .next (s.monoDid
      ((if s.mcfg.supplyGpio.isSome then [gpioE .supply .asserted, delayE s.mcfg.tPowerSettle] else [])
        ++ [cmdE [s.mop.dispon]])
      (fun q => { q with
        dispOn := some true,
        supplyLine := if s.mcfg.supplyGpio.isSome then some .asserted else q.supplyLine }) .ok) := by
  have hreads : ∀ m ∈ monoDisplayOn s.mop s.mcfg, m.within [] ∧ ∀ a n, m ≠ .send a n :=
    fun m hm => Micro.reads_nothing_of_plainMono (monoDisplayOn_plain _ _ m hm)
  unfold monoDisplayOn supplyOn at hreads ⊢
  split at hreads
  · next hsupply =>
    simp only [if_pos hsupply]
    exact runMono_ok false _ .ok s hidle hreads (Env.okFor_one le_rfl htaken)
  · next hsupply =>
    simp only [if_neg hsupply]
    exact runMono_ok false _ .ok s hidle hreads (Env.okFor_one le_rfl htaken)

/-- Settles O36: the four operations are the two sequences behind the gate. -/
theorem monoDisplayOperations : Obligations.MonoDisplayOperations := by
  intro s hidle hready htaken
  have hgate : ∀ p, gate s.mono.regs p = p := fun p => gate_ready p hready
  have hoff := runMono_displayOff hidle htaken
  have hon := runMono_displayOn hidle htaken
  rw [← hgate (.ok (monoDisplayOff s.mop s.mcfg))] at hoff
  rw [← hgate (.ok (monoDisplayOn s.mop s.mcfg))] at hon
  exact ⟨hoff, hoff, hon, hon⟩

end Sys2Proof.Machine

/-!
PROOFS. The operations that are one command of the panel or one drive of the backlight, the wire rows, and the ways a
write or an init is turned away.
-/

namespace Sys2Proof.Machine

/-! ## One COLOR command -/

/-- A COLOR plan of one command byte and what its success writes and waits, when it is taken. -/
theorem runColor_cmd {s : State} (hidle : s.color.regs.idle) (htaken : s.color.env.xfer.head = true) (op : Byte)
    {ws : List Micro} (hws : ∀ m ∈ ws, m.within [] ∧ ∀ a n, m ≠ .send a n) (hnone : xferCount (entriesOf [] ws) = 0) :
    runColor false (.ok (cmdp op [] ++ ws)) s =
      .next (s.colorDid (cmdE [op] :: entriesOf [] ws) (lastingOf ws) .ok) := by
  have hone : xferCount (cmdE [op] :: entriesOf [] ws) ≤ 1 := by rw [xferCount_cons, hnone]; exact le_rfl
  exact runColor_ok false (cmd [op] :: ws) .ok s hidle
    (List.forall_mem_cons.2 ⟨by simp [cmd, Micro.within], hws⟩) (Env.okFor_one hone htaken)

theorem runColor_displayOff {s : State} (hidle : s.color.regs.idle) (htaken : s.color.env.xfer.head = true) :
    runColor false (.ok (colorDisplayOff s.cop)) s =
      .next (s.colorDid [cmdE [s.cop.dispoff]] (fun q => { q with dispOn := some false }) .ok) :=
  runColor_cmd hidle htaken _ (by simp [Micro.within]) rfl

theorem runColor_displayOn {s : State} (hidle : s.color.regs.idle) (htaken : s.color.env.xfer.head = true) :
    runColor false (.ok (colorDisplayOn s.cop)) s =
      .next (s.colorDid [cmdE [s.cop.dispon]] (fun q => { q with dispOn := some true }) .ok) :=
  runColor_cmd hidle htaken _ (by simp [Micro.within]) rfl

theorem runColor_sleepIn {s : State} (hidle : s.color.regs.idle) (htaken : s.color.env.xfer.head = true) :
    runColor false (.ok (colorSleepIn s.cop)) s =
      .next (s.colorDid [cmdE [s.cop.slpin]] (fun q => { q with asleep := some true }) .ok) :=
  runColor_cmd hidle htaken _ (by simp [Micro.within]) rfl

theorem runColor_sleepOut {s : State} (hidle : s.color.regs.idle) (htaken : s.color.env.xfer.head = true) :
    runColor false (.ok (colorSleepOut s.k s.cop)) s =
      .next (s.colorDid [cmdE [s.cop.slpout], delayE s.k.tSlpout] (fun q => { q with asleep := some false }) .ok) := by
  simp only [colorSleepOut]
  exact runColor_cmd hidle htaken _ (by simp [delay, Micro.within]) rfl

/-- Settles O44: behind the gate, each is one command and its shadow. -/
theorem colorDisplayAndSleepOperations : Obligations.ColorDisplayAndSleepOperations := by
  intro s hidle hready htaken
  have hgate : ∀ p, runColor false (gate s.color.regs p) s = runColor false p s := fun p => by rw [gate_ready p hready]
  exact ⟨(hgate _).trans (runColor_displayOff hidle htaken), (hgate _).trans (runColor_sleepIn hidle htaken),
    (hgate _).trans (runColor_sleepOut hidle htaken)⟩

/-! ## The wire rows -/

/-- Settles O50: every row is `emitMono` of its bytes and writes nothing after. -/
theorem monoCommandsSend : Obligations.MonoCommandsSend := by
  intro s hidle htaken
  have sent : ∀ bytes, runMono false (.ok [cmd bytes]) s = .next (s.monoDid [cmdE bytes] noWrites .ok) :=
    fun bytes => runMono_cmd hidle htaken bytes (by simp) rfl
  exact ⟨fun _ => sent _, fun _ => sent _, fun _ => sent _, fun _ _ => sent _, fun _ _ => sent _, fun _ => sent _,
    fun _ => sent _, fun _ => sent _, fun _ => sent _, sent _, sent _, fun _ => sent _, fun _ => sent _,
    fun _ => sent _, fun _ => sent _, fun _ => sent _, fun _ => sent _, fun _ => sent _, fun _ => sent _,
    fun _ => sent _, fun _ => sent _⟩

/-- Settles O51. -/
theorem monoDisplayAndDataRowsSend : Obligations.MonoDisplayAndDataRowsSend := by
  intro s hidle htaken
  refine ⟨?off, ?on, ?reset, fun px => ?data⟩
  case off => exact runMono_cmd hidle htaken _ (by simp [Micro.within]) rfl
  case on => exact runMono_cmd hidle htaken _ (by simp [Micro.within]) rfl
  case reset =>
    change runMono false (.ok (monoSoftResetXfer s.k)) s = _
    unfold monoSoftResetXfer
    split
    · exact runMono_ok false [] .ok s hidle (by simp) (Env.okFor_none rfl)
    · exact runMono_cmd hidle htaken _ (by simp) rfl
  case data =>
    change runMono false (.ok (if px = [] then [] else [dat px])) s = _
    split
    · exact runMono_ok false [] .ok s hidle (by simp) (Env.okFor_none rfl)
    · exact runMono_ok false [dat px] .ok s hidle (by simp [dat, Micro.within]) (Env.okFor_one le_rfl htaken)

/-- A COLOR command with its parameters, when its transfers are taken. -/
theorem runColor_cmdp {s : State} (hidle : s.color.regs.idle) (op : Byte) (ps : List Byte)
    (htaken : s.color.env.okFor (cmdpE op ps)) :
    runColor false (.ok (cmdp op ps)) s = .next (s.colorDid (cmdpE op ps) noWrites .ok) := by
  have hwrites : lastingOf (cmdp op ps) = noWrites := funext (lastingOf_cmdp op ps)
  have hrun := runColor_ok false (cmdp op ps) .ok s hidle (cmdp_reads_nothing op ps []) (by rwa [entriesOf_cmdp])
  rwa [entriesOf_cmdp, hwrites] at hrun

/-- Settles O52: every row is `emitColor` of its byte and parameters. -/
theorem colorCommandsSend : Obligations.ColorCommandsSend := by
  intro s hidle
  have sent := runColor_cmdp hidle
  exact ⟨sent _ _, sent _ _, sent _ _, sent _ _, fun _ => sent _ _, fun _ _ => sent _ _, fun _ _ => sent _ _,
    fun _ => sent _ _, fun _ => sent _ _, fun _ => sent _ _, fun _ => sent _ _, fun _ => sent _ _, fun _ => sent _ _,
    fun _ => sent _ _, fun _ => sent _ _, fun _ => sent _ _, fun _ => sent _ _, fun _ => sent _ _, fun _ => sent _ _,
    fun _ => sent _ _, fun _ => sent _ _, fun _ => sent _ _, fun _ => sent _ _, fun _ => sent _ _⟩

/-- Settles O53. -/
theorem colorDisplaySleepAndDataRowsSend : Obligations.ColorDisplaySleepAndDataRowsSend := by
  intro s hidle htaken
  refine ⟨runColor_displayOff hidle htaken, runColor_displayOn hidle htaken, runColor_sleepIn hidle htaken,
    runColor_sleepOut hidle htaken, fun px => ?_⟩
  change runColor false (.ok (if px = [] then [] else [dat px])) s = _
  split
  · exact runColor_ok false [] .ok s hidle (by simp) (Env.okFor_none rfl)
  · exact runColor_ok false [dat px] .ok s hidle (by simp [dat, Micro.within]) (Env.okFor_one le_rfl htaken)

/-! ## Backlight -/

/-- Settles O48: floor division of `period * b` by 255. -/
theorem dutyLaw : Obligations.DutyLaw := by
  intro period b c
  have hb : b.toNat ≤ 255 := by have := b.isLt; omega
  refine ⟨duty_le period b, by simp [duty], by simp [duty], fun hle => ?monotone, fun hok => ?product⟩
  case monotone => exact Nat.div_le_div_right (Nat.mul_le_mul_left period hle)
  case product => exact lt_of_le_of_lt (Nat.mul_le_mul_left period hb) ((pwmOk_iff _).1 hok _ rfl)

/-- With a PWM that is ready, set_brightness sets it (R411). -/
theorem brightnessPlan_pwm {cfg : ColorCfg} {h : PwmHandle} (hpwm : cfg.blPwm = some h) (b : Byte) :
    brightnessPlan cfg true b = .ok [.act (.pwm h.period (duty h.period b)), .set (.backlightLevel b)] := by
  simp [brightnessPlan, hpwm]

/-- With a PWM that is not ready and no GPIO there is nothing to drive (R413). -/
theorem brightnessPlan_unready {cfg : ColorCfg} {h : PwmHandle} (hpwm : cfg.blPwm = some h) (hgpio : cfg.blGpio = none)
    (b : Byte) : brightnessPlan cfg false b = .raise .deviceNotReady := by
  simp [brightnessPlan, hpwm, hgpio]

/-- With neither configured (R413). -/
theorem brightnessPlan_unsupported {cfg : ColorCfg} (hpwm : cfg.blPwm = none) (hgpio : cfg.blGpio = none) (up : Bool)
    (b : Byte) : brightnessPlan cfg up b = .raise .unsupportedOperation := by
  simp [brightnessPlan, hpwm, hgpio]

/-- Settles O46: the branches of `brightnessPlan` but the GPIO one; none has a transfer. -/
theorem brightnessByPwm : Obligations.BrightnessByPwm := by
  intro b s hidle hready
  rw [exec_colorSetBrightness_ready b hready]
  refine ⟨fun h hpwm hup => ?pwm, fun h hpwm hdown hgpio => ?notReady, fun hpwm hgpio => ?neither⟩
  case pwm =>
    rw [readyAll_pwmHandles (by rw [hpwm]; rfl), hup, brightnessPlan_pwm hpwm]
    exact runColor_ok false _ .ok s.pwmAsked hidle (by simp [Micro.within]) (Env.okFor_none rfl)
  case notReady =>
    rw [readyAll_pwmHandles (by rw [hpwm]; rfl), hdown, brightnessPlan_unready hpwm hgpio]
    exact runColor_raise (s := s.pwmAsked) hidle false _
  case neither =>
    have hasked : s.pwmAsked = s := by simp [State.pwmAsked, pwmHandles, hpwm, askAll]
    rw [hasked, brightnessPlan_unsupported hpwm hgpio]
    exact runColor_raise hidle false _

/-! ## Operations turned away -/

/-- A COLOR operation that only takes a buffer into use hands back its result. -/
theorem runColor_pix_raise {s : State} (hidle : s.color.regs.idle) (pix : List Byte) (r : Result) :
    runColor false (.after [.set (.pix pix)] (.raise r)) s = .next (s.answered r) := by
  have hrun := runColor_pix_ok false pix [] r s hidle (by simp) (Env.okFor_none rfl)
  rwa [entriesOf_nil, State.colorDid, Inst.after_nil] at hrun

theorem monoWriteRejected_iff (cfg : MonoCfg) (x y : Nat) (d : BufferDescriptor) :
    monoWriteRejected cfg x y (rectOf d) = true ↔ ¬ monoAccepted cfg.width.toNat cfg.height.toNat x y d := by
  simp only [monoWriteRejected, Bool.or_eq_true, decide_eq_true_eq, beq_iff_eq, bne_iff_ne]
  simp only [rectOf, monoAccepted]
  omega

/-- MONO write in Ready (R207). -/
theorem exec_monoWrite_ready {s : State} (x y : Half) (d : BufferDescriptor) (pix : List Byte)
    (hready : s.mono.regs.phase = .ready) :
    exec (.monoWrite x y d pix) s =
      runMono false (monoWritePlan s.mop s.mcfg x.toNat y.toNat (rectOf d) pix) s := by
  change runMono false (gate s.mono.regs _) s = _
  rw [gate_ready _ hready]

/-- Settles O30: both checks end the plan before the buffer is taken into use. -/
theorem monoWriteRejects : Obligations.MonoWriteRejects := by
  intro x y d pix s hidle hready hbad
  have hplan : monoWritePlan s.mop s.mcfg x.toNat y.toNat (rectOf d) pix = .raise .geometryViolation := by
    unfold monoWritePlan
    rcases hbad with hrejected | hempty
    · rw [if_pos ((monoWriteRejected_iff _ _ _ _).2 hrejected)]
    · exact ite_eq_left_iff.2 fun _ => if_pos hempty
  rw [exec_monoWrite_ready x y d pix hready, hplan]
  exact runMono_raise hidle false _

theorem colorWriteRejected_iff (d : BufferDescriptor) : colorWriteRejected (rectOf d) = true ↔
    d.pitch.toNat < d.width.toNat ∨ d.width = 0 ∨ d.height = 0 := by
  simp only [colorWriteRejected, Bool.or_eq_true, decide_eq_true_eq, beq_iff_eq]
  simp [rectOf, BitVec.toNat_eq]

/-- COLOR write in Ready (R307). -/
theorem exec_colorWrite_ready {s : State} (x y : Half) (d : BufferDescriptor) (pix : List Byte)
    (hready : s.color.regs.phase = .ready) :
    exec (.colorWrite x y d pix) s =
      runColor false (.after [.set (.pix pix)] (colorWritePlan s.cop s.ccfg x.toNat y.toNat (rectOf d))) s := by
  change runColor false (gate s.color.regs _) s = _
  rw [gate_ready _ hready]

/-- Settles O42: the two checks of `colorWritePlan`, in order. -/
theorem colorWriteTurnedAway : Obligations.ColorWriteTurnedAway := by
  intro x y d pix s hidle hready
  rw [exec_colorWrite_ready x y d pix hready, ← colorWriteRejected_iff, colorWritePlan]
  refine ⟨fun hrejected => ?_, fun haccepted hshort => ?_⟩
  · rw [if_pos hrejected]
    exact runColor_pix_raise hidle pix _
  · have hheight : (rectOf d).height ≠ 0 := by
      intro h
      exact haccepted ((colorWriteRejected_iff d).2 (.inr (.inr (BitVec.eq_of_toNat_eq h))))
    rw [if_neg haccepted, if_pos (by rw [bytesNeeded_eq _ _ hheight]; exact hshort)]
    rfl

/-- Settles O26: `readyAll` fails, and the plan only writes `phase`. -/
theorem initNeedsReadyHandles : Obligations.InitNeedsReadyHandles := by
  refine ⟨fun s hidle hdown => ?_, fun s hidle hdown => ?_⟩
  · have hready : ¬ readyAll (monoHandles s.mcfg) s.mono.env = true := mt (readyAll_monoHandles _ _).1 hdown
    change runMono true (if readyAll (monoHandles s.mcfg) s.mono.env then _ else _) s.monoAsked = _
    rw [if_neg hready]
    have hrun := runMono_ok true [.set (.phase .failed)] .deviceNotReady s.monoAsked hidle (by simp [Micro.within])
      (Env.okFor_none rfl)
    rwa [State.monoDid, show entriesOf [] [.set (.phase .failed)] = [] from rfl, Inst.after_nil] at hrun
  · have hready : ¬ readyAll (colorHandles s.ccfg) s.color.env = true := mt (readyAll_colorHandles _ _).1 hdown
    change runColor true (if readyAll (colorHandles s.ccfg) s.color.env then _ else _) s.colorAsked = _
    rw [if_neg hready]
    have hrun := runColor_ok true [.set (.phase .failed)] .deviceNotReady s.colorAsked hidle (by simp [Micro.within])
      (Env.okFor_none rfl)
    rwa [State.colorDid, show entriesOf [] [.set (.phase .failed)] = [] from rfl, Inst.after_nil] at hrun

end Sys2Proof.Machine

/-!
PROOFS. The inits of both units: the actions of the whole sequence (R201, R302), what it writes, and where a COLOR init
stops when a transfer is not taken (R305, R505).
-/

namespace Sys2Proof.Machine

/-! ## MONO init -/

theorem entriesOf_monoResetStep (k : Consts) (cfg : MonoCfg) : entriesOf [] (monoResetStep k cfg) =
    if cfg.resetGpio then
      [gpioE .reset .asserted, delayE k.tMonoRstPulse, gpioE .reset .deasserted, delayE k.tMonoRstSettle]
    else (if k.monoSoftResetCmd = [] then [] else [cmdE k.monoSoftResetCmd]) ++ [delayE k.tMonoRstSettle] := by
  unfold monoResetStep monoSwReset monoSoftResetXfer
  split
  · rfl
  · split <;> rfl

theorem lastingOf_monoResetStep (k : Consts) (cfg : MonoCfg) (q : Regs) : lastingOf (monoResetStep k cfg) q =
    { q with resetLine := if cfg.resetGpio then some .deasserted else q.resetLine } := by
  unfold monoResetStep monoSwReset monoSoftResetXfer
  split
  · rfl
  · split <;> rfl

theorem entriesOf_monoConfigure (k : Consts) (op : MonoOps) (cfg : MonoCfg) :
    entriesOf [] (monoConfigure k op cfg (initialPf cfg)) =
      [cmdE [op.segremap ||| (if cfg.segmentRemap then 1 else 0), op.comscan ||| (if cfg.comScanFlipped then 8 else 0)],
       cmdE [op.clockdiv, cfg.clockDiv, op.precharge, cfg.precharge, op.vcomh,
         if cfg.chip = .ssd1309 then k.vcomhSsd1309 else k.vcomhSsd1306],
       cmdE [op.startline ||| 0x00, op.dispoffset, cfg.displayOffset, op.compins, cfg.comPadCfg,
         op.mux, cfg.multiplexRatio],
       cmdE (if cfg.chip = .sh1106 then [op.dcdc, k.dcdcArg] else [op.chargepump, k.chargePumpArg])]
      ++ (if cfg.internalIref then [cmdE [op.iref, k.irefArg]] else [])
      ++ [cmdE [if cfg.colorInversion then op.inverse else op.normal], cmdE [op.contrast, k.defaultContrast]] := by
  have hvcomh : vcomhArg k cfg.chip = if cfg.chip = .ssd1309 then k.vcomhSsd1309 else k.vcomhSsd1306 := by
    cases cfg.chip <;> rfl
  have hpump : chargePump k op cfg.chip =
      if cfg.chip = .sh1106 then [op.dcdc, k.dcdcArg] else [op.chargepump, k.chargePumpArg] := by
    cases cfg.chip <;> rfl
  have hpolarity : polarityByte op (initialPf cfg) = if cfg.colorInversion then op.inverse else op.normal := by
    unfold initialPf
    cases cfg.colorInversion <;> rfl
  rw [monoConfigure, hvcomh, hpump, hpolarity]
  cases cfg.internalIref <;> rfl

theorem lastingOf_monoConfigure (k : Consts) (op : MonoOps) (cfg : MonoCfg) (f : Format) (q : Regs) :
    lastingOf (monoConfigure k op cfg f) q = q := by
  unfold monoConfigure
  cases cfg.internalIref <;> rfl

theorem entriesOf_supplyOn (cfg : MonoCfg) : entriesOf [] (supplyOn cfg) =
    if cfg.supplyGpio.isSome then [gpioE .supply .asserted, delayE cfg.tPowerSettle] else [] := by
  unfold supplyOn
  split <;> rfl

theorem lastingOf_supplyOn (cfg : MonoCfg) (q : Regs) : lastingOf (supplyOn cfg) q =
    { q with supplyLine := if cfg.supplyGpio.isSome then some .asserted else q.supplyLine } := by
  unfold supplyOn
  split <;> rfl

/-- The actions of a whole MONO init. -/
theorem entriesOf_monoInitPlan (k : Consts) (op : MonoOps) (cfg : MonoCfg) :
    entriesOf [] (monoInitPlan k op cfg).micros = monoInitTrace k op cfg := by
  rw [monoInitPlan_eq, entriesOf_cons, entriesOf_append, monoInitActions, entriesOf_append, entriesOf_append,
    entriesOf_append, entriesOf_monoResetStep, entriesOf_monoConfigure, entriesOf_supplyOn]
  simp only [monoInitTrace, List.append_assoc]
  rfl

/-- The registers a whole MONO init writes. -/
theorem lastingOf_monoInitPlan_eq (k : Consts) (op : MonoOps) (cfg : MonoCfg) (q : Regs) :
    lastingOf (monoInitPlan k op cfg).micros q = { q with
      phase := .ready, indeterminate := false, dispOn := some true,
      pf := if cfg.colorInversion then .monoInverted else .monoNormal,
      resetLine := if cfg.resetGpio then some .deasserted else q.resetLine,
      supplyLine := if cfg.supplyGpio.isSome then some .asserted else q.supplyLine } := by
  rw [monoInitPlan_eq, lastingOf_cons, lastingOf_append, monoInitActions, lastingOf_append, lastingOf_append,
    lastingOf_append, lastingOf_monoResetStep, lastingOf_monoConfigure, lastingOf_supplyOn]
  rfl

/-- Settles O24. -/
theorem monoInitCompletes : Obligations.MonoInitCompletes := by
  intro s hidle hhandles htaken
  rw [exec_monoInit_ready hhandles, ← entriesOf_monoInitPlan,
    ← funext (lastingOf_monoInitPlan_eq s.k s.mop s.mcfg)]
  rw [← entriesOf_monoInitPlan] at htaken
  exact runMono_ok true _ .ok s.monoAsked hidle (monoInitPlan_reads_nothing _ _ _)
    (by rwa [Env.okFor, State.monoAsked_xfer])

/-! ## COLOR init -/

/-- The part of COLOR init up to the write of `disp_on` (R303, R304). -/
def colorInitDark (k : Consts) (op : ColorOps) (cfg : ColorCfg) : List Micro :=
  colorResetStep k op cfg ++ [cmd [op.dispoff]]

/-- The part from there to the write of `asleep` (R304, R305). -/
def colorInitWake (k : Consts) (op : ColorOps) (cfg : ColorCfg) : List Micro :=
  colorConfigure k op cfg ++ [cmd [op.slpout]]

/-- COLOR init as actions between its register writes. -/
theorem colorInitPlan_eq (k : Consts) (op : ColorOps) (cfg : ColorCfg) :
    colorInitPlan k op cfg = ⟨colorInitDark k op cfg ++ .set (.dispOn false) ::
      (colorInitWake k op cfg ++ .set (.asleep false) :: delay k.tSlpout :: cmd [op.dispon] ::
        [.set (.dispOn true), .set (.phase .ready), .set (.indeterminate false)]), .result .ok⟩ := by
  simp [colorInitPlan, colorInitDark, colorInitWake, colorDisplayOff, colorWake, colorSleepOut, colorDisplayOn, initDone,
    Plan.ok, cmdp]

theorem cmdp_acts (op : Byte) (ps : List Byte) : ∀ m ∈ cmdp op ps, ∃ a, m = .act a := by
  unfold cmdp
  split <;> simp [cmd, dat]

theorem colorConfigure_acts (k : Consts) (op : ColorOps) (cfg : ColorCfg) :
    ∀ m ∈ colorConfigure k op cfg, ∃ a, m = .act a := by
  have hvrh : ∀ m ∈ vrhVdvStep k op cfg.vrhVdv, ∃ a, m = .act a := by
    unfold vrhVdvStep
    split
    · simp
    · simp only [List.forall_mem_append]
      exact ⟨⟨cmdp_acts _ _, cmdp_acts _ _⟩, cmdp_acts _ _⟩
  simp only [colorConfigure, List.forall_mem_append]
  and_intros <;> first | exact hvrh | exact cmdp_acts _ _

theorem colorInitDark_acts (k : Consts) (op : ColorOps) (cfg : ColorCfg) :
    ∀ m ∈ colorInitDark k op cfg, ∃ a, m = .act a := by
  unfold colorInitDark colorResetStep
  split <;> simp [gpio, delay, cmd, cmdp]

theorem colorInitWake_acts (k : Consts) (op : ColorOps) (cfg : ColorCfg) :
    ∀ m ∈ colorInitWake k op cfg, ∃ a, m = .act a := by
  simp only [colorInitWake, List.forall_mem_append]
  exact ⟨colorConfigure_acts _ _ _, by simp [cmd]⟩

theorem colorInitPlan_reads_nothing (k : Consts) (op : ColorOps) (cfg : ColorCfg) :
    ∀ m ∈ (colorInitPlan k op cfg).micros, m.within [] ∧ ∀ a n, m ≠ .send a n := fun m hm =>
  (colorInitPlan_plain k op cfg m hm).elim Micro.reads_nothing_of_plainColor Micro.reads_nothing_of_lifecycle

theorem entriesOf_colorResetStep (k : Consts) (op : ColorOps) (cfg : ColorCfg) :
    entriesOf [] (colorResetStep k op cfg) = colorResetTrace k op cfg := by
  unfold colorResetStep colorResetTrace
  split <;> rfl

theorem lastingOf_colorResetStep (k : Consts) (op : ColorOps) (cfg : ColorCfg) (q : Regs) :
    lastingOf (colorResetStep k op cfg) q =
      { q with resetLine := if cfg.resetGpio then some .deasserted else q.resetLine } := by
  unfold colorResetStep
  split <;> rfl

theorem lastingOf_colorConfigure (k : Consts) (op : ColorOps) (cfg : ColorCfg) (q : Regs) :
    lastingOf (colorConfigure k op cfg) q = q := by
  simp only [colorConfigure, lastingOf_append, lastingOf_cmdp]
  unfold vrhVdvStep
  split
  · rfl
  · simp only [lastingOf_append, lastingOf_cmdp]

@[simp] theorem entries_cmd (pix s : List Byte) : (cmd s).entries pix = [cmdE s] := rfl
@[simp] theorem entries_delay (pix : List Byte) (t : Nat) : (delay t).entries pix = [delayE t] := rfl
@[simp] theorem entries_set (pix : List Byte) (w : RegWrite) : (Micro.set w).entries pix = [] := rfl
@[simp] theorem cmdpE_nil (op : Byte) : cmdpE op [] = [cmdE [op]] := rfl

/-- The actions of a whole COLOR init. -/
theorem entriesOf_colorInitPlan (k : Consts) (op : ColorOps) (cfg : ColorCfg) :
    entriesOf [] (colorInitPlan k op cfg).micros = colorInitTrace k op cfg := by
  have hvrh : ∀ vrh vdv, entriesOf [] (vrhVdvStep k op (some (vrh, vdv))) =
      cmdpE op.vdvvrhen [k.vdvvrhenEnable] ++ cmdpE op.vrhs [vrh] ++ cmdpE op.vdvs [vdv] := by simp [vrhVdvStep]
  rw [colorInitPlan_eq, colorInitDark, colorInitWake, colorConfigure]
  unfold colorInitTrace
  simp only [entriesOf_append, entriesOf_cons, entriesOf_cmdp, entriesOf_colorResetStep, cmdpE_nil, entries_cmd,
    entries_delay, entries_set, entriesOf_nil, List.append_assoc, List.nil_append, List.cons_append]
  rcases cfg.vrhVdv with _ | ⟨vrh, vdv⟩
  · rfl
  · simp only [hvrh, List.append_assoc]

/-- The registers a whole COLOR init writes. -/
theorem lastingOf_colorInitPlan_eq (k : Consts) (op : ColorOps) (cfg : ColorCfg) (q : Regs) :
    lastingOf (colorInitPlan k op cfg).micros q = { q with
      phase := .ready, indeterminate := false, dispOn := some true, asleep := some false,
      resetLine := if cfg.resetGpio then some .deasserted else q.resetLine } := by
  rw [colorInitPlan_eq, colorInitDark, colorInitWake, lastingOf_append, lastingOf_append, lastingOf_colorResetStep,
    lastingOf_cons, lastingOf_append, lastingOf_append, lastingOf_colorConfigure]
  rfl

/-- Once its handles answered that they are ready, COLOR init runs its whole plan (R302). -/
theorem exec_colorInit_ready {s : State} (h : colorHandlesReady s) :
    exec .colorInit s = runColor true (colorInitPlan s.k s.cop s.ccfg) s.colorAsked := by
  change runColor true (if readyAll (colorHandles s.ccfg) s.color.env then _ else _) s.colorAsked = _
  rw [if_pos ((readyAll_colorHandles s.ccfg s.color.env).2 h)]

/-- Asking its handles takes no answer of its transport. -/
theorem State.colorAsked_xfer (s : State) : s.colorAsked.color.env.xfer = s.color.env.xfer := askAll_xfer _ _

/-- Settles O38. -/
theorem colorInitCompletes : Obligations.ColorInitCompletes := by
  intro s hidle hhandles htaken
  rw [exec_colorInit_ready hhandles, ← entriesOf_colorInitPlan, ← funext (lastingOf_colorInitPlan_eq s.k s.cop s.ccfg)]
  rw [← entriesOf_colorInitPlan] at htaken
  exact runColor_ok true _ .ok s.colorAsked hidle (colorInitPlan_reads_nothing _ _ _)
    (by rwa [Env.okFor, State.colorAsked_xfer])

/-! ## Where a COLOR init stops -/

/-- A COLOR plan that reads no buffer, when not all of its transfers are taken: it ends at the first of them. -/
theorem runColor_fails (b : Bool) (ms : List Micro) (r : Result) (s : State) (h : s.color.regs.idle)
    (hw : ∀ m ∈ ms, m.within [] ∧ ∀ a n, m ≠ .send a n) (hok : ¬ s.color.env.okFor (entriesOf [] ms)) :
    ∃ ms₁ f bytes ms₂, ms = ms₁ ++ .act (.xfer f bytes) :: ms₂ ∧ s.color.env.okFor (entriesOf [] ms₁) ∧
      s.color.env.xfer.answer (xferCount (entriesOf [] ms₁)) = false ∧
      runColor b ⟨ms, .result r⟩ s = .next (s.colorDid (entriesOf [] ms₁ ++ [⟨.xfer f bytes, false⟩])
        (fun q => (lastingOf ms₁ q).abandon b) .busTransferFailure) := by
  obtain ⟨ms₁, m, ms₂, e, -, rfl, hentry, hx, hok₁, hfail, -, -⟩ :=
    runMicros_fails s.colorSink b [] ms (.result r) s.color
      (fun ⟨a, n, hm⟩ => absurd rfl ((hw _ hm).2 a n)) (fun m hm => (hw m hm).1) hok
  obtain ⟨f, bytes, rfl⟩ : ∃ f bytes, m = .act (.xfer f bytes) := by
    cases m with
    | set w => simp [Micro.entries] at hentry
    | send a n => exact absurd rfl ((hw _ (by simp)).2 a n)
    | act a =>
      obtain rfl : ⟨a, true⟩ = e := by simpa [Micro.entries] using hentry
      cases a with
      | xfer f bytes => exact ⟨f, bytes, rfl⟩
      | _ => simp [Act.isXfer] at hx
  exact ⟨ms₁, f, bytes, ms₂, rfl, hok₁, hfail,
    runColor_failsAt b ms₁ ms₂ f bytes _ s h (fun m hm => hw m (List.mem_append_left _ hm)) hok₁ hfail⟩

/-- A sequence of actions leaves one entry each. -/
theorem length_entriesOf_acts (pix : List Byte) {ms : List Micro} (h : ∀ m ∈ ms, ∃ a, m = .act a) :
    (entriesOf pix ms).length = ms.length := by
  induction ms with
  | nil => rfl
  | cons m ms ih =>
    obtain ⟨⟨a, rfl⟩, hms⟩ := List.forall_mem_cons.1 h
    rw [entriesOf_cons, List.length_append, ih hms, List.length_cons, Nat.add_comm]
    rfl

/-- Actions alone do not write the sleep shadow. -/
theorem lastingOf_acts_asleep {ms : List Micro} (h : ∀ m ∈ ms, ∃ a, m = .act a) (q : Regs) :
    (lastingOf ms q).asleep = q.asleep := by
  refine lastingOf_keeps (P := fun g => g.asleep = q.asleep) (fun m hm g hg => ?_) rfl
  obtain ⟨a, rfl⟩ := h m hm
  exact (Regs.effect_asleep g a).trans hg

/-- An element of a list that is followed by another in a split of the two. -/
theorem split_append_cons {α : Type} {as bs cs ds : List α} {b c : α} (h : as ++ b :: bs = cs ++ c :: ds)
    (hne : b ≠ c) : (∃ es, as = cs ++ c :: es) ∨ ∃ es, cs = as ++ b :: es ∧ bs = es ++ c :: ds := by
  rcases List.append_eq_append_iff.1 h with ⟨es, hcs, hbs⟩ | ⟨es, has, hds⟩
  · cases es with
    | nil => exact absurd (List.cons.inj hbs).1 hne
    | cons e es =>
      obtain ⟨rfl, rfl⟩ := List.cons.inj hbs
      exact .inr ⟨es, hcs, rfl⟩
  · cases es with
    | nil => exact absurd (List.cons.inj hds).1.symm hne
    | cons e es =>
      obtain ⟨rfl, -⟩ := List.cons.inj hds
      exact .inl ⟨es, has⟩

/-- How many actions a COLOR init has performed before its transfer at a given place, and the two shadows it has written
by then. -/
theorem colorInitPlan_before {k : Consts} {op : ColorOps} {cfg : ColorCfg} {ms₁ ms₂ : List Micro} {f : Kind}
    {bytes : List Byte} (h : (colorInitPlan k op cfg).micros = ms₁ ++ .act (.xfer f bytes) :: ms₂) (q : Regs) :
    (lastingOf ms₁ q).dispOn =
      (if (colorResetTrace k op cfg).length < (entriesOf [] ms₁).length then some false else q.dispOn) ∧
    (lastingOf ms₁ q).asleep =
      (if (colorInitTrace k op cfg).length < (entriesOf [] ms₁).length + 3 then some false else q.asleep) := by
  have hdark := colorInitDark_acts k op cfg
  have hwake := colorInitWake_acts k op cfg
  have hreset : (colorResetTrace k op cfg).length + 1 = (colorInitDark k op cfg).length := by
    rw [← length_entriesOf_acts [] hdark, colorInitDark, entriesOf_append, entriesOf_colorResetStep, List.length_append]
    rfl
  have hall : (colorInitTrace k op cfg).length = (colorInitDark k op cfg).length + (colorInitWake k op cfg).length + 2 := by
    rw [← entriesOf_colorInitPlan, colorInitPlan_eq, ← length_entriesOf_acts [] hdark, ← length_entriesOf_acts [] hwake]
    simp [Micro.entries, cmd, delay]
    omega
  have hslpout : 0 < (colorInitWake k op cfg).length := by simp [colorInitWake]
  rw [colorInitPlan_eq] at h
  generalize colorInitDark k op cfg = dark at *
  generalize colorInitWake k op cfg = wake at *
  rcases split_append_cons h (by simp) with ⟨es, hsplit⟩ | ⟨as, rfl, hrest⟩
  · rw [hsplit] at hdark
    have hbefore := (List.forall_mem_append.1 hdark).1
    have hlen := congrArg List.length hsplit
    rw [List.length_append, List.length_cons, ← length_entriesOf_acts [] hbefore] at hlen
    rw [if_neg (by omega), if_neg (by omega)]
    exact ⟨(lastingOf_acts hbefore q).2, lastingOf_acts_asleep hbefore q⟩
  · rcases split_append_cons hrest (by simp) with ⟨es, hsplit⟩ | ⟨bs, rfl, hend⟩
    · rw [hsplit] at hwake
      have hbefore := (List.forall_mem_append.1 hwake).1
      have hlen := congrArg List.length hsplit
      rw [List.length_append, List.length_cons, ← length_entriesOf_acts [] hbefore] at hlen
      have hcount : (entriesOf [] (dark ++ .set (.dispOn false) :: as)).length =
          dark.length + (entriesOf [] as).length := by
        rw [entriesOf_append, List.length_append, length_entriesOf_acts [] hdark]
        rfl
      rw [hcount, if_pos (by omega), if_neg (by omega), lastingOf_append, lastingOf_cons]
      exact ⟨(lastingOf_acts hbefore _).2,
        (lastingOf_acts_asleep hbefore _).trans (lastingOf_acts_asleep hdark q)⟩
    · obtain rfl : bs = [delay k.tSlpout] := by
        rcases List.append_eq_cons_iff.1 hend.symm with ⟨rfl, hfirst⟩ | ⟨cs, rfl, hcs⟩
        · simp [delay] at hfirst
        · rcases List.append_eq_cons_iff.1 hcs.symm with ⟨rfl, -⟩ | ⟨ds, rfl, hds⟩
          · rfl
          · have hmem : Micro.act (.xfer f bytes) ∈ ds ++ .act (.xfer f bytes) :: ms₂ := by simp
            rw [← hds] at hmem
            simp at hmem
      have hcount : (entriesOf [] (dark ++ .set (.dispOn false) ::
          (wake ++ .set (.asleep false) :: [delay k.tSlpout]))).length =
          dark.length + wake.length + 1 := by
        simp [length_entriesOf_acts [] hdark, length_entriesOf_acts [] hwake, Nat.add_assoc]
      rw [hcount, if_pos (by omega), if_pos (by omega), lastingOf_append, lastingOf_cons, lastingOf_append]
      exact ⟨(lastingOf_acts hwake _).2, rfl⟩

/-- Settles O39: `runColor_fails` gives the end, `colorInitPlan_before` the two shadows. -/
theorem colorInitStopsAtFailure : Obligations.ColorInitStopsAtFailure := by
  intro s hidle hhandles all hall hnot
  rw [hall, ← entriesOf_colorInitPlan] at hnot
  obtain ⟨ms₁, f, bytes, ms₂, hsplit, hok₁, hfail, hrun⟩ := runColor_fails true _ .ok s.colorAsked hidle
    (colorInitPlan_reads_nothing s.k s.cop s.ccfg) (by rwa [Env.okFor, State.colorAsked_xfer])
  rw [Env.okFor, State.colorAsked_xfer] at hok₁
  rw [State.colorAsked_xfer] at hfail
  let done := (s.colorAsked.color.after s.colorSink (entriesOf [] ms₁ ++ [⟨.xfer f bytes, false⟩])).regs
  obtain ⟨hdisp, hsleep⟩ := colorInitPlan_before hsplit done
  refine ⟨_, entriesOf [] ms₁, ⟨.xfer f bytes, true⟩, entriesOf [] ms₂, (exec_colorInit_ready hhandles).trans hrun, ?all,
    rfl, hok₁, hfail, ?trace, rfl, rfl, rfl, ?resetLine, hdisp, hall ▸ hsleep⟩
  case all => rw [hall, ← entriesOf_colorInitPlan, hsplit, entriesOf_append, entriesOf_cons]; rfl
  case trace => exact (lastingOf_trace _ _).trans (List.append_assoc ..).symm
  case resetLine => exact lastingOf_line [] _ _ .reset

end Sys2Proof.Machine

/-!
PROOFS. The writes of both units and the fill: the transfers of an accepted write (R212, R214, R311, R312), the page guard
(R215), the tiles of a fill (R441), and the range of a MONO write's addresses (R162, R163).
-/

namespace Sys2Proof.Machine

/-! ## MONO addresses -/

theorem toNat_trunc8 (n : Nat) : (trunc8 (n : Int)).toNat = n % 256 := by
  rw [trunc8, BitVec.ofInt_natCast, BitVec.toNat_ofNat]

theorem monoColumnStart_eq (cfg : MonoCfg) (x : Nat) :
    monoColumnStart cfg x = trunc8 ((x : Int) + cfg.segmentOffset.toNat) := by
  rw [monoColumnStart, Int.natCast_add]

theorem monoColumnEnd_eq (cfg : MonoCfg) (x width : Nat) :
    monoColumnEnd cfg x width = trunc8 ((x : Int) + width - 1 + cfg.segmentOffset.toNat) := by
  rw [monoColumnEnd, Int.natCast_add]

theorem monoColumnEnd_of_pos (cfg : MonoCfg) (x : Nat) {width : Nat} (h : 0 < width) :
    monoColumnEnd cfg x width = trunc8 ((x + width - 1 + cfg.segmentOffset.toNat : Nat) : Int) := by
  rw [monoColumnEnd]
  congr 1
  omega

/-- The page end of a write of whole rows of pages, or of more than a page. -/
theorem monoPageEnd_of_le {y height : Nat} (h : 8 ≤ y + height) :
    monoPageEnd y height = trunc8 (((y + height) / 8 - 1 : Nat) : Int) := by
  rw [monoPageEnd]
  congr 1
  omega

/-- The page end of a write of less than a page at row 0 wraps (R162, D7). -/
theorem monoPageEnd_of_lt {y height : Nat} (h : y + height < 8) : monoPageEnd y height = 0xFF := by
  rw [monoPageEnd, Nat.div_eq_of_lt h]
  rfl

/-- A page of at most 7 fills its three bits of the PAGESTART byte. -/
theorem trunc8_page {n : Nat} (h : n < 8) : trunc8 (n : Int) = (BitVec.ofNat 3 n).setWidth 8 := by
  apply BitVec.eq_of_toNat_eq
  rw [toNat_trunc8, BitVec.toNat_setWidth, BitVec.toNat_ofNat, Nat.mod_eq_of_lt h]

/-- Settles O31. -/
theorem monoAddressesFit : Obligations.MonoAddressesFit := by
  intro cfg x y d hcfg hacc
  obtain ⟨-, hcolumns, -, hrows, -⟩ := (monoCfgOk_iff cfg).1 hcfg
  obtain ⟨-, hwidth, hheight, -, hy, hx, hh⟩ := hacc
  refine ⟨?columnStart, ?columnEnd, ?pageStart, by omega, fun h8 => ⟨?pageEnd, by omega⟩, monoPageEnd_of_lt,
    fun n hn => ⟨BitVec.ofNat 3 (n + y.toNat / 8), ?page, ?triple⟩⟩
  case columnStart => rw [monoColumnStart, toNat_trunc8]; omega
  case columnEnd => rw [monoColumnEnd_of_pos _ _ hwidth, toNat_trunc8]; omega
  case pageStart => rw [monoPageStart, toNat_trunc8]; omega
  case pageEnd => rw [monoPageEnd_of_le h8, toNat_trunc8]; omega
  case page => rw [BitVec.toNat_ofNat]; omega
  case triple => rw [pageTriple, trunc8_page (by omega)]; rfl

/-! ## MONO writes -/

/-- An accepted write with some effective length takes its buffer into use and runs its chip's path. -/
theorem monoWritePlan_accepted (op : MonoOps) {cfg : MonoCfg} {x y : Nat} {d : BufferDescriptor} (pix : List Byte)
    (hacc : monoAccepted cfg.width.toNat cfg.height.toNat x y d) (hlen : effectiveLength (rectOf d) ≠ 0) :
    monoWritePlan op cfg x y (rectOf d) pix =
      .after [.set (.pix pix)] (monoWritePath op cfg x y (rectOf d) (effectiveLength (rectOf d))) := by
  rw [monoWritePlan, if_neg (fun h => (monoWriteRejected_iff cfg x y d).1 h hacc), if_neg hlen]

theorem monoWritePath_default (op : MonoOps) {cfg : MonoCfg} (h : cfg.chip ≠ .sh1106) (x y : Nat) (d : Rect) (len : Nat) :
    monoWritePath op cfg x y d len = monoWriteDefault op cfg x y d len := by
  cases hc : cfg.chip <;> simp_all [monoWritePath]

theorem monoWritePath_quirk (op : MonoOps) {cfg : MonoCfg} (h : cfg.chip = .sh1106) (x y : Nat) (d : Rect) (len : Nat) :
    monoWritePath op cfg x y d len = monoWriteQuirk op cfg x y d len := by
  simp [monoWritePath, h]

/-- An accepted write with some effective length performs its chip's path, when that is taken and inside the buffer. -/
theorem exec_monoWrite_path {x y : Half} {d : BufferDescriptor} {pix : List Byte} {s : State} (hidle : s.mono.regs.idle)
    (hready : s.mono.regs.phase = .ready)
    (hacc : monoAccepted s.mcfg.width.toNat s.mcfg.height.toNat x.toNat y.toNat d)
    (hlen : effectiveLength (rectOf d) ≠ 0) {ms : List Micro} {r : Result}
    (hpath : monoWritePath s.mop s.mcfg x.toNat y.toNat (rectOf d) (effectiveLength (rectOf d)) = ⟨ms, .result r⟩)
    (hwithin : ∀ m ∈ ms, m.within pix) (htaken : s.mono.env.okFor (entriesOf pix ms)) :
    exec (.monoWrite x y d pix) s = .next (s.monoDid (entriesOf pix ms) (lastingOf ms) r) := by
  rw [exec_monoWrite_ready x y d pix hready, monoWritePlan_accepted _ _ hacc hlen, hpath]
  exact runMono_pix_ok false pix ms r s hidle hwithin htaken

/-- The transfers of a default-path write. -/
theorem entriesOf_monoWriteDefault (op : MonoOps) (cfg : MonoCfg) (x y : Nat) (d : BufferDescriptor) (pix : List Byte)
    (len : Nat) : entriesOf pix (monoWriteDefault op cfg x y (rectOf d) len).micros =
      monoDefaultTrace op cfg x y d pix len := by
  rw [monoWriteDefault, monoColumnStart_eq, monoColumnEnd_eq]
  rfl

theorem monoWriteDefault_within (op : MonoOps) (cfg : MonoCfg) (x y : Nat) (d : Rect) {pix : List Byte} {len : Nat}
    (h : len ≤ pix.length) : ∀ m ∈ (monoWriteDefault op cfg x y d len).micros, m.within pix := by
  simpa [monoWriteDefault, Plan.ok, cmd, Micro.within] using h

/-- Settles O27. -/
theorem monoDefaultWriteCompletes : Obligations.MonoDefaultWriteCompletes := by
  intro x y d pix s hidle hready hchip hacc len hlen hpos hcovered htaken
  obtain rfl : len = effectiveLength (rectOf d) := hlen
  rw [← entriesOf_monoWriteDefault] at htaken ⊢
  exact exec_monoWrite_path hidle hready hacc hpos.ne' (monoWritePath_default _ hchip _ _ _ _)
    (monoWriteDefault_within _ _ _ _ _ hcovered) htaken

/-- The page triple with the nibbles of the column masked out of its byte. -/
theorem pageTriple_eq (op : MonoOps) (c : Byte) (page : Nat) :
    pageTriple op c page = [op.lowcol ||| (c &&& 0x0F), op.highcol ||| (c >>> 4), op.pagestart ||| trunc8 (page : Int)] := by
  have hlow : (lowNibble c).setWidth 8 = c &&& 0x0F := by revert c; decide
  have hhigh : (highNibble c).setWidth 8 = c >>> 4 := by revert c; decide
  rw [pageTriple, lowcolByte, highcolByte, hlow, hhigh]

/-- The transfers of the first pages of a quirk-path write. -/
theorem monoQuirkTrace_eq (op : MonoOps) (cfg : MonoCfg) (x y : Nat) (d : BufferDescriptor) (pix : List Byte)
    (count : Nat) : monoQuirkTrace op cfg x y d pix count = (List.range' 0 count).flatMap (fun n =>
      [cmdE (pageTriple op (monoColumnStart cfg x) (n + y / 8)),
       datE ((pix.drop (n * d.width.toNat)).take d.width.toNat)]) := by
  rw [monoQuirkTrace, ← List.range_eq_range', monoColumnStart_eq]
  simp only [pageTriple_eq]

theorem wholePages_le (height width : Nat) : height / 8 * width ≤ height * width / 8 := by
  rw [Nat.le_div_iff_mul_le (by decide), Nat.mul_right_comm]
  exact Nat.mul_le_mul_right _ (Nat.div_mul_le_self _ _)

/-- Settles O28: the declared length covers every page (`monoQuirkPages_covered`). -/
theorem monoQuirkWriteCompletes : Obligations.MonoQuirkWriteCompletes := by
  intro x y d pix s hidle hready hchip hacc hpos hbuf hpix htaken
  have hcovered : (0 + d.height.toNat / 8) * d.width.toNat ≤ effectiveLength (rectOf d) := by
    rw [Nat.zero_add]
    exact le_min hbuf (wholePages_le _ _)
  obtain ⟨ms, hplan, hwithin, hentries, hlasting⟩ := monoQuirkPages_covered s.mop (monoColumnStart s.mcfg x.toNat)
    y.toNat d.width.toNat _ pix 0 (d.height.toNat / 8) hcovered
  rw [← monoQuirkTrace_eq] at hentries
  rw [← hentries] at htaken ⊢
  have hrun := exec_monoWrite_path hidle hready hacc hpos.ne' ((monoWritePath_quirk _ hchip _ _ _ _).trans hplan)
    (hwithin (by rwa [Nat.zero_add])) htaken
  rwa [show lastingOf ms = noWrites from funext hlasting] at hrun

/-- Settles O29: the guard stops at the first page not covered (`monoQuirkPages_guard`); with no declared bytes at all the
write is turned away before its path. -/
theorem monoQuirkGuardStops : Obligations.MonoQuirkGuardStops := by
  intro x y d pix s hidle hready hchip hacc hshort count hcount hpix htaken
  have hwidth : 0 < d.width.toNat := hacc.2.1
  have hlength : effectiveLength (rectOf d) = d.bufSize.toNat :=
    min_eq_left (hshort.le.trans (wholePages_le _ _))
  by_cases hzero : d.bufSize.toNat = 0
  · rw [hzero, Nat.zero_div] at hcount
    have hrun := monoWriteRejects x y d pix s hidle hready (.inr (hlength.trans hzero))
    rw [hcount, hrun, monoQuirkTrace_eq, List.range'_zero, List.flatMap_nil, State.monoDid, Inst.after_nil]
    rfl
  · have hle : (0 + count) * d.width.toNat ≤ effectiveLength (rectOf d) := by
      rw [Nat.zero_add, hcount, hlength]
      exact Nat.div_mul_le_self _ _
    have hnext : effectiveLength (rectOf d) < (0 + count + 1) * d.width.toNat := by
      rw [Nat.zero_add, hcount, hlength, Nat.mul_comm]
      exact Nat.lt_mul_div_succ _ hwidth
    have hlt : count < d.height.toNat / 8 := by
      rw [hcount]
      exact Nat.div_lt_of_lt_mul (by rwa [Nat.mul_comm])
    obtain ⟨ms, hplan, hwithin, hentries, hlasting⟩ := monoQuirkPages_guard s.mop (monoColumnStart s.mcfg x.toNat)
      y.toNat d.width.toNat _ pix 0 count _ hlt hle hnext
    rw [← monoQuirkTrace_eq] at hentries
    rw [← hentries] at htaken ⊢
    have hrun := exec_monoWrite_path hidle hready hacc (hlength ▸ hzero) ((monoWritePath_quirk _ hchip _ _ _ _).trans hplan)
      (hwithin (by rwa [Nat.zero_add])) htaken
    rwa [show lastingOf ms = noWrites from funext hlasting] at hrun

/-! ## COLOR writes -/

/-- The transfers that set a window. -/
theorem entriesOf_colorWindow (op : ColorOps) (cfg : ColorCfg) (x y : Nat) (d : Rect) (pix : List Byte) :
    entriesOf pix (colorWindow op cfg x y d) = colorWindowTrace op cfg x y d.width d.height := by
  have hstart : ∀ (v : Nat) (off : Half), windowStart v off = trunc16 ((v : Int) + off.toNat) := fun v off => by
    rw [windowStart, Int.natCast_add]
  have hend : ∀ (v : Nat) (off : Half) (size : Nat), windowEnd v off size = trunc16 ((v : Int) + off.toNat + size - 1) :=
    fun v off size => by rw [windowEnd, Int.natCast_add, Int.natCast_add]
  rw [colorWindow, hstart, hstart, hend, hend]
  rfl

/-- A write with a rectangle its declared size covers sends its window and its stream. -/
theorem colorWritePlan_covered (op : ColorOps) (cfg : ColorCfg) (x y : Nat) {d : Rect} (hpitch : d.width ≤ d.pitch)
    (hw : d.width ≠ 0) (hh : d.height ≠ 0) (hbuf : bytesNeeded cfg.pixelFormat.bytes d ≤ d.bufSize) :
    colorWritePlan op cfg x y d = .ok (colorWindow op cfg x y d ++ colorStream cfg.pixelFormat.bytes d) := by
  rcases colorWritePlan_cases op cfg x y d with ⟨-, hbad⟩ | ⟨-, -, -, ⟨-, hshort⟩ | ⟨hplan, -⟩⟩
  · omega
  · omega
  · exact hplan

/-- The stream of a write writes no lasting register. -/
theorem lastingOf_colorStream (ps : Nat) (d : Rect) (q : Regs) : lastingOf (colorStream ps d) q = q := by
  unfold colorStream
  split
  · rfl
  · exact (colorRows_spec [] ps d.width d.pitch 0 d.height).2.1 q

/-- A COLOR write whose rectangle is covered by the declared and the actual buffer, when its transfers are taken. -/
theorem exec_colorWrite_covered {x y : Half} {d : BufferDescriptor} {pix : List Byte} {s : State}
    (hidle : s.color.regs.idle) (hready : s.color.regs.phase = .ready) (hpitch : d.width.toNat ≤ d.pitch.toNat)
    (hw : d.width ≠ 0) (hh : d.height ≠ 0)
    (hbuf : bytesNeeded s.ccfg.pixelFormat.bytes (rectOf d) ≤ d.bufSize.toNat)
    (hpix : bytesNeeded s.ccfg.pixelFormat.bytes (rectOf d) ≤ pix.length) {es : List Entry}
    (hes : es = colorWindowTrace s.cop s.ccfg x.toNat y.toNat d.width.toNat d.height.toNat ++
      entriesOf pix (colorStream s.ccfg.pixelFormat.bytes (rectOf d)))
    (htaken : s.color.env.okFor es) :
    exec (.colorWrite x y d pix) s = .next (s.colorDid es noWrites .ok) := by
  have hwidth : (rectOf d).width ≠ 0 := fun h => hw (BitVec.eq_of_toNat_eq h)
  have hheight : (rectOf d).height ≠ 0 := fun h => hh (BitVec.eq_of_toNat_eq h)
  have hentries : entriesOf pix (colorWindow s.cop s.ccfg x.toNat y.toNat (rectOf d) ++
      colorStream s.ccfg.pixelFormat.bytes (rectOf d)) = es := by
    rw [entriesOf_append, entriesOf_colorWindow, hes]
    rfl
  have hlasting : lastingOf (colorWindow s.cop s.ccfg x.toNat y.toNat (rectOf d) ++
      colorStream s.ccfg.pixelFormat.bytes (rectOf d)) = noWrites := by
    funext q
    rw [lastingOf_append, lastingOf_colorWindow, lastingOf_colorStream]
    rfl
  rw [exec_colorWrite_ready x y d pix hready, colorWritePlan_covered _ _ _ _ hpitch hwidth hheight hbuf]
  have hrun := runColor_pix_ok false pix _ .ok s hidle
    (List.forall_mem_append.2 ⟨fun m hm => (colorWindow_reads_nothing s.cop s.ccfg x.toNat y.toNat (rectOf d) pix m hm).1,
      colorStream_within _ (rectOf d) pix hheight hpix⟩) (by rwa [hentries])
  rwa [hentries, hlasting] at hrun

/-- Settles O40. -/
theorem colorContiguousWriteCompletes : Obligations.ColorContiguousWriteCompletes := by
  intro x y d pix s hidle hready hpitch hw hh need hneed hbuf hpix es hes htaken
  have heq : (rectOf d).pitch = (rectOf d).width := congrArg BitVec.toNat hpitch
  have hbytes : bytesNeeded s.ccfg.pixelFormat.bytes (rectOf d) = need := by rw [bytesNeeded, if_pos heq, hneed]; rfl
  refine exec_colorWrite_covered hidle hready heq.ge hw hh (hbytes ▸ hbuf) (hbytes ▸ hpix) ?_ htaken
  rw [hes, colorStream, if_pos heq, hneed]
  rfl

/-- Settles O41: `colorRows_spec` gives the rows. -/
theorem colorStridedWriteCompletes : Obligations.ColorStridedWriteCompletes := by
  intro x y d pix s hidle hready hpitch hw hh need hneed hbuf hpix es hes htaken
  have hne : ¬ (rectOf d).pitch = (rectOf d).width := hpitch.ne'
  have hbytes : bytesNeeded s.ccfg.pixelFormat.bytes (rectOf d) = need := by rw [bytesNeeded, if_neg hne, hneed]; rfl
  refine exec_colorWrite_covered hidle hready hpitch.le hw hh (hbytes ▸ hbuf) (hbytes ▸ hpix) ?_ htaken
  rw [hes, colorStream, if_neg hne, (colorRows_spec pix _ _ _ _ _).1, ← List.range_eq_range']
  rfl

/-! ## The tiles of a fill -/

/-- The transfers of the write of tile `j` of a fill. -/
def fillTile (op : ColorOps) (cfg : ColorCfg) (rows : Nat) (chunk : List Byte) (j : Nat) : List Entry :=
  colorWindowTrace op cfg 0 (j * rows) cfg.width.toNat (min rows (cfg.height.toNat - j * rows)) ++
    [datE (chunk.take (cfg.width.toNat * min rows (cfg.height.toNat - j * rows) * cfg.pixelFormat.bytes))]

theorem xferCount_fillTile (op : ColorOps) (cfg : ColorCfg) (rows : Nat) (chunk : List Byte) (j : Nat) :
    xferCount (fillTile op cfg rows chunk j) = 6 := rfl

theorem xferCount_flatMap {α : Type} {f : α → List Entry} {n : Nat} (h : ∀ a, xferCount (f a) = n) (l : List α) :
    xferCount (l.flatMap f) = n * l.length := by
  induction l with
  | nil => rfl
  | cons a l ih => rw [List.flatMap_cons, xferCount_append, h, ih, List.length_cons]; ring

/-- From the start of tile `j` on (or the panel's end), a fill sends the tiles left and writes no lasting register. -/
theorem fillLoop_tiles (op : ColorOps) (cfg : ColorCfg) {rows : Nat} (fuel j : Nat) (chunk : List Byte)
    (hw : cfg.width.toNat ≠ 0) (hrows : rows ≠ 0) (hfuel : cfg.height.toNat ≤ j * rows + fuel) :
    entriesOf chunk (fillLoop op cfg rows fuel (min (j * rows) cfg.height.toNat)).micros =
      (List.range' j ((cfg.height.toNat + rows - 1) / rows - j)).flatMap (fillTile op cfg rows chunk) ∧
    ∀ q, lastingOf (fillLoop op cfg rows fuel (min (j * rows) cfg.height.toNat)).micros q = q := by
  have hpos : 0 < rows := Nat.pos_of_ne_zero hrows
  have hdone : cfg.height.toNat ≤ j * rows → (cfg.height.toNat + rows - 1) / rows - j = 0 := fun h => by
    have hlt : (cfg.height.toNat + rows - 1) / rows < j + 1 :=
      (Nat.div_lt_iff_lt_mul hpos).2 (by rw [Nat.succ_mul]; omega)
    omega
  induction fuel generalizing j with
  | zero => rw [hdone (by omega)]; exact ⟨rfl, fun _ => rfl⟩
  | succ fuel ih =>
    unfold fillLoop
    by_cases hend : cfg.height.toNat ≤ j * rows
    · rw [hdone hend, if_pos (by omega)]
      exact ⟨rfl, fun _ => rfl⟩
    · have hlt : j * rows < cfg.height.toNat := Nat.lt_of_not_le hend
      have hstart : min (j * rows) cfg.height.toNat = j * rows := min_eq_left hlt.le
      have hnext : j * rows + min rows (cfg.height.toNat - j * rows) = min ((j + 1) * rows) cfg.height.toNat := by
        rw [Nat.succ_mul]; omega
      have hleft : (cfg.height.toNat + rows - 1) / rows - j = (cfg.height.toNat + rows - 1) / rows - (j + 1) + 1 := by
        have hle : j + 1 ≤ (cfg.height.toNat + rows - 1) / rows :=
          (Nat.le_div_iff_mul_le hpos).2 (by rw [Nat.succ_mul]; omega)
        omega
      obtain ⟨hentries, hlasting⟩ := ih (j + 1) (by rw [Nat.succ_mul]; omega) (fun h => by
        have hlt : (cfg.height.toNat + rows - 1) / rows < j + 1 + 1 :=
          (Nat.div_lt_iff_lt_mul hpos).2 (by rw [Nat.succ_mul]; omega)
        omega)
      rw [if_neg (by omega)]
      dsimp only
      rw [hstart, colorWritePlan_fillRect op cfg rows _ _ hw (by omega) (Nat.min_le_left _ _), hnext, hleft,
        List.range'_succ, List.flatMap_cons, ← hentries]
      refine ⟨?_, fun q => ?_⟩
      · simp only [Plan.after, Plan.andThen, Plan.ok, if_pos, entriesOf_append, entriesOf_colorWindow, entriesOf_cons,
          entries_set, entriesOf_nil, List.append_assoc, List.nil_append, List.append_nil]
        simp [fillTile, fillRect, Micro.entries, datE]
      · simp only [Plan.after, Plan.andThen, Plan.ok, if_pos, lastingOf_append, lastingOf_cons, lastingOf_colorWindow,
          lastingOf_nil, hlasting]
        rfl

/-- COLOR fill in Ready (R440). -/
theorem exec_colorFill_ready {s : State} (color : List Byte) (hready : s.color.regs.phase = .ready) :
    exec (.colorFill color) s = runColor false (fillPlan s.k s.cop s.ccfg color) s := by
  change runColor false (gate s.color.regs _) s = _
  rw [gate_ready _ hready]

/-- Settles O49: `fillLoop_ok` gives the end of the loop, `fillLoop_tiles` its transfers. -/
theorem fillTilesThePanel : Obligations.FillTilesThePanel := by
  intro color s hidle hready hcfg H C W ps count hH hC hW hps hcount
  subst hH hC hW hps
  obtain ⟨hwidth, hheight, hrows, -, -⟩ := (colorCfgOk_iff s.k s.ccfg).1 hcfg
  rw [exec_colorFill_ready color hready, fillPlan]
  refine ⟨fun hlen es hes => ?_, fun hlen => ?_⟩
  · rw [if_neg (not_not.2 hlen)]
    obtain ⟨hfinal, hwithin⟩ := fillLoop_ok s.cop s.ccfg s.k.fillChunkRows s.ccfg.height.toNat 0
      (fillChunk (s.ccfg.width.toNat * s.k.fillChunkRows) color) (by omega) (by omega) (by rw [length_fillChunk, hlen])
    obtain ⟨hentries, hlasting⟩ := fillLoop_tiles s.cop s.ccfg (rows := s.k.fillChunkRows) s.ccfg.height.toNat 0
      (fillChunk (s.ccfg.width.toNat * s.k.fillChunkRows) color) (by omega) (by omega) (by omega)
    rw [Nat.zero_mul, Nat.zero_min] at hentries hlasting
    rw [Nat.sub_zero, ← hcount, ← List.range_eq_range'] at hentries
    have htiles : es = (List.range count).flatMap (fillTile s.cop s.ccfg s.k.fillChunkRows
      (fillChunk (s.ccfg.width.toNat * s.k.fillChunkRows) color)) := hes
    refine ⟨?_, fun htaken => ?_⟩
    · rw [htiles, xferCount_flatMap (xferCount_fillTile _ _ _ _), List.length_range]
    · rw [htiles, ← hentries] at htaken ⊢
      have hrun := runColor_pix_ok false _ _ .ok s hidle hwithin htaken
      rw [show lastingOf _ = noWrites from funext hlasting, ← hfinal] at hrun
      exact hrun
  · rw [if_pos hlen]
    exact runColor_raise hidle false _

end Sys2Proof.Machine

/-!
PROOFS. Runs from any state of a unit, its working registers holding anything: what its wire rows put on the bus
(section 3 of 30_encoding.md), the frames of a transfer (R105, R106), and the operations that keep the pixel store.
-/

namespace Sys2Proof.Machine

/-! ## Runs from any registers -/

/-- The state with the working registers of the MONO unit let go. -/
def State.monoRested (s : State) : State := { s with mono := s.mono.rested }

/-- The state with the working registers of the COLOR unit let go. -/
def State.colorRested (s : State) : State := { s with color := s.color.rested }

section

variable {π : Type} (sink : π → Entry → π) (b : Bool)

/-- A plan that reads no buffer, when its transfers are taken, from whatever the working registers hold. -/
theorem runPlan_taken {ms : List Micro} (r : Result) {q : Inst π} (hw : ∀ m ∈ ms, m.within [] ∧ ∀ a n, m ≠ .send a n)
    (hok : q.env.okFor (entriesOf [] ms)) : runPlan sink b ⟨ms, .result r⟩ q =
      .done r ((q.rested.after sink (entriesOf [] ms)).withRegs (lastingOf ms)) := by
  have hrun := runMicros_ok sink b [] ms (.result r) { q with regs := q.regs.begin }
    (fun ⟨a, n, hm⟩ => absurd rfl ((hw _ hm).2 a n)) (fun m hm => (hw m hm).1) hok
  unfold runPlan
  dsimp only
  rw [hrun]
  simp only [runMicros, foldl_onRegs_finish]
  rfl

/-- A plan over a pixel buffer, as `runPlan_taken`. -/
theorem runPlan_pix_taken {pix : List Byte} {ms : List Micro} (r : Result) {q : Inst π} (hw : ∀ m ∈ ms, m.within pix)
    (hok : q.env.okFor (entriesOf pix ms)) : runPlan sink b ⟨.set (.pix pix) :: ms, .result r⟩ q =
      .done r ((q.rested.after sink (entriesOf pix ms)).withRegs (lastingOf ms)) := by
  have hrun := runMicros_ok sink b pix ms (.result r) { q with regs := q.regs.begin.write (.pix pix) }
    (fun _ => rfl) hw hok
  unfold runPlan
  dsimp only [runMicros]
  rw [hrun]
  simp only [runMicros, foldl_onRegs_finish]
  rfl

end

theorem runMono_taken {b : Bool} {ms : List Micro} {r : Result} {s : State}
    (hw : ∀ m ∈ ms, m.within [] ∧ ∀ a n, m ≠ .send a n) (hok : s.mono.env.okFor (entriesOf [] ms)) :
    runMono b ⟨ms, .result r⟩ s = .next (s.monoRested.monoDid (entriesOf [] ms) (lastingOf ms) r) :=
  runMono_of_done (runPlan_taken s.monoSink b r hw hok)

theorem runMono_pix_taken {b : Bool} {pix : List Byte} {ms : List Micro} {r : Result} {s : State}
    (hw : ∀ m ∈ ms, m.within pix) (hok : s.mono.env.okFor (entriesOf pix ms)) :
    runMono b ⟨.set (.pix pix) :: ms, .result r⟩ s =
      .next (s.monoRested.monoDid (entriesOf pix ms) (lastingOf ms) r) :=
  runMono_of_done (runPlan_pix_taken s.monoSink b r hw hok)

theorem runColor_taken {b : Bool} {ms : List Micro} {r : Result} {s : State}
    (hw : ∀ m ∈ ms, m.within [] ∧ ∀ a n, m ≠ .send a n) (hok : s.color.env.okFor (entriesOf [] ms)) :
    runColor b ⟨ms, .result r⟩ s = .next (s.colorRested.colorDid (entriesOf [] ms) (lastingOf ms) r) :=
  runColor_of_done (runPlan_taken s.colorSink b r hw hok)

theorem runColor_pix_taken {b : Bool} {pix : List Byte} {ms : List Micro} {r : Result} {s : State}
    (hw : ∀ m ∈ ms, m.within pix) (hok : s.color.env.okFor (entriesOf pix ms)) :
    runColor b ⟨.set (.pix pix) :: ms, .result r⟩ s =
      .next (s.colorRested.colorDid (entriesOf pix ms) (lastingOf ms) r) :=
  runColor_of_done (runPlan_pix_taken s.colorSink b r hw hok)

@[simp] theorem State.monoDid_trace (s : State) (es : List Entry) (ms : List Micro) (r : Result) :
    (s.monoRested.monoDid es (lastingOf ms) r).mono.regs.trace = s.mono.regs.trace ++ es := lastingOf_trace _ _

@[simp] theorem State.colorDid_trace (s : State) (es : List Entry) (ms : List Micro) (r : Result) :
    (s.colorRested.colorDid es (lastingOf ms) r).color.regs.trace = s.color.regs.trace ++ es := lastingOf_trace _ _

theorem State.monoDid_panel (s : State) (es : List Entry) (upd : Regs → Regs) (r : Result) :
    (s.monoRested.monoDid es upd r).mono.panel = es.foldl s.monoSink s.mono.panel := rfl

theorem State.colorDid_panel (s : State) (es : List Entry) (upd : Regs → Regs) (r : Result) :
    (s.colorRested.colorDid es upd r).color.panel = es.foldl s.colorSink s.color.panel := rfl

/-! ## Wire rows and their encodings -/

/-- Elements that emit no transfer and read no buffer: what may follow a wire command. -/
def Micro.silent : Micro → Bool
  | .act a => !a.isXfer
  | .send _ _ => false
  | .set (.pix _) => false
  | .set _ => true

theorem Micro.reads_nothing_of_silent {m : Micro} (h : m.silent = true) : m.within [] ∧ ∀ a n, m ≠ .send a n := by
  cases m with
  | act a => exact ⟨trivial, by simp⟩
  | send a n => contradiction
  | set w => cases w <;> first | exact ⟨trivial, by simp⟩ | contradiction

theorem xferCount_silent {ms : List Micro} (h : ∀ m ∈ ms, m.silent = true) : xferCount (entriesOf [] ms) = 0 := by
  induction ms with
  | nil => rfl
  | cons m ms ih =>
    obtain ⟨hm, hms⟩ := List.forall_mem_cons.1 h
    rw [entriesOf_cons, xferCount_append, ih hms]
    cases m with
    | act a => cases a <;> first | rfl | contradiction
    | send a n => contradiction
    | set w => rfl

/-- The plan of a MONO wire row sends its encoding. -/
theorem monoPlan_wire {s : State} {i : Instr} (hop : s.mop = .spec) (hport : (encode i).port = .cmd .mono) :
    ∃ ws, s.monoPlan i = some (.ok (cmd (encode i).bytes :: ws)) ∧ (∀ m ∈ ws, m.silent = true) ∧
      entriesOf [] ws = [] := by
  rw [State.monoPlan, hop]
  cases i
  case monoDispoff => exact ⟨[.set (.dispOn false)], rfl, by simp [Micro.silent], rfl⟩
  case monoDispon => exact ⟨[.set (.dispOn true)], rfl, by simp [Micro.silent], rfl⟩
  all_goals first
    | exact ⟨[], rfl, by simp, rfl⟩
    | cases hport

/-- The plan of a COLOR wire row sends its encoding, and after sleep-out waits. -/
theorem colorPlan_wire {s : State} {i : Instr} {op : Byte} {ps : List Byte} (hop : s.cop = .spec)
    (hport : (encode i).port = .cmd .color) (hbytes : (encode i).bytes = op :: ps) :
    ∃ ws, s.colorPlan i = some (.ok (cmdp op ps ++ ws)) ∧ (∀ m ∈ ws, m.silent = true) ∧
      entriesOf [] ws = if i = .colorSlpout then [delayE s.k.tSlpout] else [] := by
  rw [State.colorPlan, hop]
  cases i
  case colorDispoff => cases hbytes; exact ⟨[.set (.dispOn false)], rfl, by simp [Micro.silent], rfl⟩
  case colorDispon => cases hbytes; exact ⟨[.set (.dispOn true)], rfl, by simp [Micro.silent], rfl⟩
  case colorSlpin => cases hbytes; exact ⟨[.set (.asleep true)], rfl, by simp [Micro.silent], rfl⟩
  case colorSlpout =>
    cases hbytes
    exact ⟨[.set (.asleep false), delay s.k.tSlpout], rfl, by simp [Micro.silent, delay, Act.isXfer], rfl⟩
  all_goals first
    | cases hbytes; exact ⟨[], by rw [List.append_nil]; rfl, by simp, rfl⟩
    | cases hport

/-- Settles O54: `monoPlan_wire` and `colorPlan_wire` name the plans, which run to their ends. -/
theorem emittedBytesAreTheEncoding : Obligations.EmittedBytesAreTheEncoding := by
  refine ⟨fun i s t hop htaken hport h => ?mono, fun i s t op ps hop htaken hport hbytes h => ?color⟩
  case mono =>
    obtain ⟨ws, hplan, hsilent, hnone⟩ := monoPlan_wire hop hport
    have hentries : entriesOf [] (cmd (encode i).bytes :: ws) = [cmdE (encode i).bytes] := by
      rw [entriesOf_cons, hnone]; rfl
    rcases exec_mono s (show unitOf i = .mono by rw [unitOf, hport]) with ⟨rfl, -⟩ | ⟨p, hp, hexec⟩
    · contradiction
    · obtain rfl := Option.some.inj (hplan.symm.trans hp)
      rw [monoAsks_of_ne (by rintro rfl; contradiction)] at hexec
      have hrun := runMono_taken (b := decide (i = .monoInit)) (r := .ok) (s := s.askMono [])
        (ms := cmd (encode i).bytes :: ws)
        (List.forall_mem_cons.2 ⟨by simp [cmd, Micro.within], fun m hm => Micro.reads_nothing_of_silent (hsilent m hm)⟩)
        (by rw [hentries]; exact Env.okFor_one le_rfl htaken)
      obtain rfl := Host.Outcome.next.inj (h.symm.trans (hexec.trans hrun))
      rw [State.monoDid_trace, hentries]
      rfl
  case color =>
    obtain ⟨ws, hplan, hsilent, hafter⟩ := colorPlan_wire hop hport hbytes
    have hentries : entriesOf [] (cmdp op ps ++ ws) = cmdpE op ps ++ entriesOf [] ws := by
      rw [entriesOf_append, entriesOf_cmdp]
    rcases exec_color s (show unitOf i = .color by rw [unitOf, hport]) with ⟨rfl, -⟩ | ⟨p, hp, hexec⟩
    · contradiction
    · obtain rfl := Option.some.inj (hplan.symm.trans hp)
      have hasks : colorAsks s.ccfg s.color.regs i = [] := by
        cases i <;> first | rfl | contradiction
      rw [hasks] at hexec
      have hok : (s.askColor []).color.env.okFor (entriesOf [] (cmdp op ps ++ ws)) := by
        rw [hentries, Env.okFor, xferCount_append, xferCount_silent hsilent]
        exact htaken
      have hrun := runColor_taken (b := decide (i = .colorInit)) (r := .ok) (s := s.askColor [])
        (List.forall_mem_append.2
          ⟨cmdp_reads_nothing op ps [], fun m hm => Micro.reads_nothing_of_silent (hsilent m hm)⟩) hok
      obtain rfl := Host.Outcome.next.inj (h.symm.trans (hexec.trans hrun))
      rw [State.colorDid_trace, hentries, hafter, List.append_assoc]
      rfl

/-! ## Frames -/

/-- An element of a list made of blocks of one length. -/
theorem getElem?_flatMap_blocks {α β : Type} (l : List α) (f : α → List β) {len i : Nat}
    (hlen : ∀ a ∈ l, (f a).length = len) (hi : i < len) (n : Nat) :
    (l.flatMap f)[len * n + i]? = l[n]?.bind fun a => (f a)[i]? := by
  induction l generalizing n with
  | nil => simp
  | cons a l ih =>
    obtain ⟨ha, hl⟩ := List.forall_mem_cons.1 hlen
    rw [List.flatMap_cons]
    cases n with
    | zero => rw [List.getElem?_append_left (by omega)]; simp
    | succ n =>
      rw [List.getElem?_append_right (by rw [ha, Nat.mul_succ]; omega), ha,
        show len * (n + 1) + i - len = len * n + i by rw [Nat.mul_succ]; omega, ih hl]
      rfl

theorem length_flatMap_blocks {α β : Type} {l : List α} {f : α → List β} {len : Nat} (h : ∀ a ∈ l, (f a).length = len) :
    (l.flatMap f).length = len * l.length := by
  rw [List.length_flatMap, List.map_congr_left h, List.map_const', List.sum_replicate, smul_eq_mul, Nat.mul_comm]

theorem length_msbFirst (b : Byte) : (msbFirst b).length = 8 := rfl

theorem msbFirst_getElem? (b : Byte) {j : Nat} (h : j < 8) : (msbFirst b)[j]? = some (b.getLsbD (7 - j)) := by
  interval_cases j <;> rfl

theorem addressByte_eq (addr : BitVec 7) : addressByte addr = BitVec.ofNat 8 (2 * addr.toNat) := by
  revert addr
  decide

/-- Settles O59: the two frames are concatenations; the bits of a byte form a block of eight. -/
theorem framesCarryTheBytes : Obligations.FramesCarryTheBytes := by
  refine ⟨fun addr f s => ?i2c, fun f s => ⟨s.flatMap msbFirst, ?frame, ?length, fun n hn j hj => ?bit⟩⟩
  case i2c =>
    rw [← addressByte_eq]
    cases f <;> simp [frame, controlByte]
  case frame => cases f <;> simp [frame]
  case length => exact length_flatMap_blocks fun b _ => length_msbFirst b
  case bit =>
    rw [getElem?_flatMap_blocks s msbFirst (fun b _ => length_msbFirst b) hj, List.getElem?_eq_getElem hn]
    exact msbFirst_getElem? s[n] hj

/-! ## Settings leave the pixel stores alone -/

/-- What a settled MONO panel does with a command transfer that is not the soft-reset string. -/
theorem MonoPanel.receive_cmd {k : Consts} (cfg : MonoCfg) {p : MonoPanel} {s : List Byte} (hsettled : p.settled = true)
    (hreset : s ≠ k.monoSoftResetCmd) : p.receive k cfg (cmdE s) = MonoPanel.commands cfg s.length s p := by
  simp [MonoPanel.receive, cmdE, hsettled, hreset]

/-- The command strings of the MONO settings: contrast, polarity, display off and on. -/
def monoSetting (s : List Byte) : Prop :=
  (∃ v, s = [MonoOps.spec.contrast, v]) ∨ s = [MonoOps.spec.normal] ∨ s = [MonoOps.spec.inverse] ∨
    s = [MonoOps.spec.dispoff] ∨ s = [MonoOps.spec.dispon]

/-- They do not touch the sink, on any chip. -/
theorem MonoPanel.commands_setting (cfg : MonoCfg) (p : MonoPanel) {s : List Byte} (h : monoSetting s) :
    MonoPanel.commands cfg s.length s p = p := by
  have hkeeps : ∀ i, (p.rangeCommand i = p ∧ p.pageCommand cfg.internalIref i = p) → p.command cfg i = p :=
    fun i ⟨hrange, hpage⟩ => by unfold MonoPanel.command; split <;> assumption
  rcases h with ⟨v, rfl⟩ | rfl | rfl | rfl | rfl
  · exact hkeeps (.monoContrast v) ⟨rfl, rfl⟩
  · exact hkeeps .monoNormal ⟨rfl, rfl⟩
  · exact hkeeps .monoInverse ⟨rfl, rfl⟩
  · exact hkeeps .monoDispoff ⟨rfl, rfl⟩
  · exact hkeeps .monoDispon ⟨rfl, rfl⟩

/-- A MONO plan that can only set the panel: it ends without an action, or sends one of the settings. -/
def Plan.onlySetsMono (p : Plan) : Prop :=
  (∃ r, p = .raise r) ∨
    ∃ bytes ws, p = .ok (cmd bytes :: ws) ∧ monoSetting bytes ∧ (∀ m ∈ ws, m.silent = true) ∧ entriesOf [] ws = []

theorem gate_onlySetsMono (q : Regs) {p : Plan} (h : p.onlySetsMono) : (gate q p).onlySetsMono := by
  rcases gate_cases q p with ⟨hg, -⟩ | ⟨hg, -⟩ <;> rw [hg]
  · exact h
  · exact .inl ⟨_, rfl⟩

/-- Such a plan keeps the panel, if what it sends is not the soft-reset string. -/
theorem runMono_panel_of_onlySets {p : Plan} {s t : State} (hp : p.onlySetsMono) (hsettled : s.mono.panel.settled = true)
    (htaken : s.mono.env.xfer.head = true) (h : runMono false p s = .next t)
    (hreset : ∀ e ∈ t.mono.regs.trace.drop s.mono.regs.trace.length, e.act ≠ .xfer .cmd s.k.monoSoftResetCmd) :
    t.mono.panel = s.mono.panel := by
  rcases hp with ⟨r, rfl⟩ | ⟨bytes, ws, rfl, hsetting, hsilent, hnone⟩
  · obtain rfl := Host.Outcome.next.inj
      ((runMono_taken (ms := []) (r := r) (by simp) (Env.okFor_none rfl)).symm.trans h)
    rfl
  · have hentries : entriesOf [] (cmd bytes :: ws) = [cmdE bytes] := by rw [entriesOf_cons, hnone]; rfl
    have hrun := runMono_taken (b := false) (r := .ok) (s := s) (ms := cmd bytes :: ws)
      (List.forall_mem_cons.2 ⟨by simp [cmd, Micro.within], fun m hm => Micro.reads_nothing_of_silent (hsilent m hm)⟩)
      (by rw [hentries]; exact Env.okFor_one le_rfl htaken)
    obtain rfl := Host.Outcome.next.inj (hrun.symm.trans h)
    rw [State.monoDid_trace, List.drop_left, hentries] at hreset
    have hne : bytes ≠ s.k.monoSoftResetCmd := fun heq => hreset _ (List.mem_singleton_self _) (heq ▸ rfl)
    rw [State.monoDid_panel, hentries]
    exact (MonoPanel.receive_cmd s.mcfg hsettled hne).trans (MonoPanel.commands_setting s.mcfg _ hsetting)

theorem orientationPlan_raise (o : Orientation) : ∃ r, orientationPlan o = .raise r := ⟨_, orientationPlan_eq o⟩

theorem monoPixelFormatPlan_onlySets (pf f : Format) : (monoPixelFormatPlan .spec pf f).onlySetsMono := by
  unfold monoPixelFormatPlan
  split
  · exact .inl ⟨_, rfl⟩
  · split
    · exact .inl ⟨.ok, rfl⟩
    · refine .inr ⟨_, [.set (.pf f)], rfl, ?_, by simp [Micro.silent], rfl⟩
      unfold polarityByte
      split
      · exact .inr (.inr (.inl rfl))
      · exact .inr (.inl rfl)

theorem monoDisplayOff_onlySets {cfg : MonoCfg} (h : cfg.supplyGpio = none) :
    (Plan.ok (monoDisplayOff .spec cfg)).onlySetsMono := by
  rw [monoDisplayOff, supplyOff, h]
  exact .inr ⟨_, [.set (.dispOn false)], rfl, .inr (.inr (.inr (.inl rfl))), by simp [Micro.silent], rfl⟩

theorem monoDisplayOn_onlySets {cfg : MonoCfg} (h : cfg.supplyGpio = none) :
    (Plan.ok (monoDisplayOn .spec cfg)).onlySetsMono := by
  rw [monoDisplayOn, supplyOn, h]
  exact .inr ⟨_, [.set (.dispOn true)], rfl, .inr (.inr (.inr (.inr rfl))), by simp [Micro.silent], rfl⟩

/-- A command byte that is neither RAMWR nor a software reset does not touch a settled COLOR sink (R128). -/
theorem ColorPanel.receive_setting (cfg : ColorCfg) {p : ColorPanel} {op : Byte} (hsettled : p.settled = true)
    (hpending : p.pending = []) (hreset : op ≠ 0x01) (hramwr : op ≠ 0x2C) :
    p.receive cfg (cmdE [op]) = { p with latch := op, settled := op != 0x11 } := by
  cases p
  simp_all [ColorPanel.receive, cmdE, ColorPanel.command, ColorPanel.dropPartial]

/-- A COLOR plan that can only set the panel: it drives at most the backlight, or it sends a command that is neither RAMWR
nor a software reset. -/
def Plan.onlySetsColor (p : Plan) : Prop :=
  (∃ r, p = .raise r) ∨
  (∃ a w, p = .ok [.act a, .set (.backlightLevel w)] ∧ ((∃ v, a = .gpio .backlight v) ∨ ∃ n d, a = .pwm n d)) ∨
  ∃ op ws, p = .ok (cmdp op [] ++ ws) ∧ op ≠ 0x01 ∧ op ≠ 0x2C ∧ (∀ m ∈ ws, m.silent = true) ∧
    (entriesOf [] ws = [] ∨ ∃ t, entriesOf [] ws = [delayE t])

theorem gate_onlySetsColor (q : Regs) {p : Plan} (h : p.onlySetsColor) : (gate q p).onlySetsColor := by
  rcases gate_cases q p with ⟨hg, -⟩ | ⟨hg, -⟩ <;> rw [hg]
  · exact h
  · exact .inl ⟨_, rfl⟩

theorem brightnessPlan_onlySets (cfg : ColorCfg) (up : Bool) (b : Byte) : (brightnessPlan cfg up b).onlySetsColor := by
  unfold brightnessPlan
  split
  · exact .inr (.inl ⟨_, _, rfl, .inr ⟨_, _, rfl⟩⟩)
  · exact .inr (.inl ⟨_, _, rfl, .inl ⟨_, rfl⟩⟩)
  · exact .inl ⟨_, rfl⟩
  · exact .inl ⟨_, rfl⟩

/-- Such a plan keeps the pixel store of a settled panel with no pixel unfinished. -/
theorem runColor_cells_of_onlySets {p : Plan} {s t : State} (hp : p.onlySetsColor)
    (hsettled : s.color.panel.settled = true) (hpending : s.color.panel.pending = [])
    (htaken : s.color.env.xfer.head = true) (h : runColor false p s = .next t) :
    t.color.panel.cells = s.color.panel.cells := by
  rcases hp with ⟨r, rfl⟩ | ⟨a, w, rfl, ha⟩ | ⟨op, ws, rfl, hreset, hramwr, hsilent, hafter⟩
  · obtain rfl := Host.Outcome.next.inj
      ((runColor_taken (ms := []) (r := r) (by simp) (Env.okFor_none rfl)).symm.trans h)
    rfl
  · have hnone : xferCount (entriesOf [] [.act a, .set (.backlightLevel w)]) = 0 := by
      rcases ha with ⟨v, rfl⟩ | ⟨n, d, rfl⟩ <;> rfl
    obtain rfl := Host.Outcome.next.inj ((runColor_taken (ms := [.act a, .set (.backlightLevel w)]) (r := .ok)
      (by simp [Micro.within]) (Env.okFor_none hnone)).symm.trans h)
    rcases ha with ⟨v, rfl⟩ | ⟨n, d, rfl⟩ <;> rfl
  · have hentries : entriesOf [] (cmdp op [] ++ ws) = cmdE [op] :: entriesOf [] ws := by
      rw [entriesOf_append, entriesOf_cmdp]
      rfl
    have hone : xferCount (entriesOf [] (cmdp op [] ++ ws)) ≤ 1 := by
      rw [hentries, xferCount_cons, xferCount_silent hsilent]
      exact le_rfl
    have hrun := runColor_taken (b := false) (r := .ok) (s := s) (ms := cmdp op [] ++ ws)
      (List.forall_mem_append.2
        ⟨cmdp_reads_nothing op [] [], fun m hm => Micro.reads_nothing_of_silent (hsilent m hm)⟩)
      (Env.okFor_one hone htaken)
    obtain rfl := Host.Outcome.next.inj (hrun.symm.trans h)
    rw [State.colorDid_panel, hentries, List.foldl_cons, State.colorSink,
      ColorPanel.receive_setting s.ccfg hsettled hpending hreset hramwr]
    rcases hafter with hafter | ⟨d, hafter⟩ <;> rw [hafter] <;> rfl

/-- Settles O58: every listed instruction has a plan that only sets its panel. -/
theorem settingsKeepThePixelStore : Obligations.SettingsKeepThePixelStore := by
  refine ⟨fun i s t hi hop _ hsettled htaken h hreset a => ?mono, fun i s t hi hop hpending _ hsettled htaken h a => ?color⟩
  case mono =>
    have hkeeps : ∀ p : Plan, p.onlySetsMono → exec i s = runMono false p s → t.mono.panel = s.mono.panel :=
      fun p hp he => runMono_panel_of_onlySets hp hsettled htaken (he.symm.trans h) hreset
    have hpanel : t.mono.panel = s.mono.panel := by
      rcases hi with ⟨v, rfl⟩ | ⟨f, rfl⟩ | ⟨o, rfl⟩ | ⟨b, rfl⟩ | rfl | ⟨c, rfl⟩ | ⟨hsupply, hi⟩
      · exact hkeeps _ (gate_onlySetsMono _ (.inr ⟨_, [], rfl, .inl ⟨v, by rw [hop]⟩, by simp, rfl⟩)) rfl
      · exact hkeeps _ (gate_onlySetsMono _ (hop ▸ monoPixelFormatPlan_onlySets _ f)) rfl
      · exact hkeeps _ (gate_onlySetsMono _ (.inl (orientationPlan_raise o))) rfl
      · exact hkeeps _ (.inl ⟨_, rfl⟩) rfl
      · obtain rfl := Host.Outcome.next.inj h
        rfl
      · exact hkeeps _ (.inl ⟨_, rfl⟩) rfl
      · have hoff := gate_onlySetsMono s.mono.regs (monoDisplayOff_onlySets hsupply)
        have hon := gate_onlySetsMono s.mono.regs (monoDisplayOn_onlySets hsupply)
        rw [← hop] at hoff hon
        rcases hi with rfl | rfl | rfl | rfl
        · exact hkeeps _ hoff rfl
        · exact hkeeps _ hon rfl
        · exact hkeeps _ hoff rfl
        · exact hkeeps _ hon rfl
    rw [hpanel]
  case color =>
    have hkeeps : ∀ p : Plan, p.onlySetsColor → exec i s = runColor false p s →
        t.color.panel.cells = s.color.panel.cells :=
      fun p hp he => runColor_cells_of_onlySets hp hsettled hpending htaken (he.symm.trans h)
    have hsends : ∀ op ws, op ≠ 0x01 → op ≠ 0x2C → (∀ m ∈ ws, m.silent = true) →
        (entriesOf [] ws = [] ∨ ∃ t, entriesOf [] ws = [delayE t]) →
        (gate s.color.regs (.ok (cmdp op [] ++ ws))).onlySetsColor := fun op ws hr hw hs ha =>
      gate_onlySetsColor _ (.inr (.inr ⟨op, ws, rfl, hr, hw, hs, ha⟩))
    have hcells : t.color.panel.cells = s.color.panel.cells := by
      rcases hi with rfl | rfl | rfl | rfl | rfl | ⟨v, rfl⟩ | ⟨f, rfl⟩ | ⟨o, rfl⟩ | ⟨b, rfl⟩
      · exact hkeeps _ (hsends s.cop.dispoff [.set (.dispOn false)] (by rw [hop]; decide) (by rw [hop]; decide)
          (by simp [Micro.silent]) (.inl rfl)) rfl
      · exact hkeeps _ (hsends s.cop.dispon [.set (.dispOn true)] (by rw [hop]; decide) (by rw [hop]; decide)
          (by simp [Micro.silent]) (.inl rfl)) rfl
      · exact hkeeps _ (hsends s.cop.slpin [.set (.asleep true)] (by rw [hop]; decide) (by rw [hop]; decide)
          (by simp [Micro.silent]) (.inl rfl)) rfl
      · exact hkeeps _ (hsends s.cop.slpout [.set (.asleep false), delay s.k.tSlpout] (by rw [hop]; decide)
          (by rw [hop]; decide) (by simp [Micro.silent, delay, Act.isXfer]) (.inr ⟨_, rfl⟩)) rfl
      · obtain rfl := Host.Outcome.next.inj h
        rfl
      · exact hkeeps _ (.inl ⟨_, rfl⟩) rfl
      · exact hkeeps _ (gate_onlySetsColor _ (.inl ⟨_, colorPixelFormatPlan_eq s.ccfg f⟩)) rfl
      · exact hkeeps _ (gate_onlySetsColor _ (.inl (orientationPlan_raise o))) rfl
      · rw [exec, execColorSetBrightness_eq] at h
        exact runColor_cells_of_onlySets (s := s.askColor (if s.color.regs.isReady then pwmHandles s.ccfg else []))
          (gate_onlySetsColor _ (brightnessPlan_onlySets _ _ b)) hsettled hpending
          ((congrArg Draw.head (askAll_xfer _ _)).trans htaken) h
    rw [hcells]

end Sys2Proof.Machine

/-!
PROOFS. The pixel store of a MONO panel (R125 to R127): where the bytes of a payload land.
-/

namespace Sys2Proof.Machine

/-! ## Bytes landing in a store -/

/-- The store `m'` is `m` with the bytes `s` at the addresses `cell 0`, `cell 1`, …, and no other change. -/
def Memory.Lands (cell : Nat → Nat) (s : List Byte) (m m' : Memory) : Prop :=
  (∀ j, j < s.length → Memory.read m' (cell j) = s[j]?) ∧
    ∀ a, (∀ j, j < s.length → a ≠ cell j) → Memory.read m' a = Memory.read m a

theorem Memory.Lands.nil (cell : Nat → Nat) (m : Memory) : Memory.Lands cell [] m m :=
  ⟨by simp, fun _ _ => rfl⟩

/-- One more byte at the next address. -/
theorem Memory.Lands.concat {cell : Nat → Nat} {s : List Byte} {m m' : Memory} (hinj : Function.Injective cell)
    (h : Memory.Lands cell s m m') (v : Byte) :
    Memory.Lands cell (s ++ [v]) m (Memory.write m' (cell s.length) v) := by
  obtain ⟨hin, hout⟩ := h
  refine ⟨fun j hj => ?_, fun a ha => ?_⟩
  · rw [List.length_append, List.length_singleton] at hj
    rcases Nat.lt_or_eq_of_le (Nat.le_of_lt_succ hj) with hlt | rfl
    · rw [Memory.read_write_other _ _ (hinj.ne hlt.ne), hin j hlt, List.getElem?_append_left hlt]
    · rw [Memory.read_write_self, List.getElem?_concat_length]
  · simp only [List.length_append, List.length_singleton] at ha
    rw [Memory.read_write_other _ _ (ha _ (Nat.lt_succ_self _)), hout a fun j hj => ha j (Nat.lt_succ_of_lt hj)]

/-- More bytes at consecutive addresses. -/
theorem Memory.Lands.append {cell : Nat → Nat} {s : List Byte} {m m' : Memory} (hinj : Function.Injective cell)
    (h : Memory.Lands cell s m m') (vs : List Byte) {base : Nat}
    (hbase : ∀ i, i < vs.length → cell (s.length + i) = base + i) :
    Memory.Lands cell (s ++ vs) m (Memory.writeAll m' base vs) := by
  induction vs generalizing s m' base with
  | nil => rwa [List.append_nil]
  | cons v vs ih =>
    have hfirst : cell s.length = base := hbase 0 (Nat.succ_pos _)
    rw [List.append_cons, Memory.writeAll, ← hfirst]
    refine ih (h.concat hinj v) fun i hi => ?_
    rw [List.length_append, List.length_singleton, Nat.add_assoc, Nat.add_comm 1 i,
      hbase (i + 1) (Nat.succ_lt_succ hi), hfirst]
    omega

/-! ## A payload on an SH1106 -/

theorem MonoPanel.foldl_pageByte (px : List Byte) (p : MonoPanel) (h : p.col + px.length ≤ p.lastCol + 1) :
    px.foldl MonoPanel.pageByte p =
      { p with cells := p.cells.writeAll (monoCell p.page p.col) px, col := p.col + px.length } := by
  induction px generalizing p with
  | nil => rfl
  | cons v px ih =>
    rw [List.length_cons] at h
    rw [List.foldl_cons, MonoPanel.pageByte, if_pos (by omega), ih _ (by simp only; omega)]
    simp only [Memory.writeAll, monoCell, List.length_cons, Nat.add_assoc, Nat.add_comm 1]

/-- What a settled MONO panel does with a data transfer. -/
theorem MonoPanel.receive_data (k : Consts) (cfg : MonoCfg) {p : MonoPanel} (s : List Byte)
    (hsettled : p.settled = true) : p.receive k cfg (datE s) = p.payload cfg.chip s := by
  simp [MonoPanel.receive, datE, hsettled]

/-- Settles O55. -/
theorem pageDataStoresConsecutively : Obligations.PageDataStoresConsecutively := by
  intro px s hpx hchip _ hsettled htaken hfits base hbase
  have hrun := runMono_taken (b := false) (r := .ok) (s := s) (ms := [dat px]) (by simp [dat, Micro.within])
    (Env.okFor_one le_rfl htaken)
  have hexec : exec (.monoData px) s = runMono false (.ok [dat px]) s := by
    change runMono false (.ok (if px = [] then [] else [dat px])) s = _
    rw [if_neg hpx]
  have hcells : Memory.Lands (fun j => base + j) px s.mono.panel.cells
      ([datE px].foldl s.monoSink s.mono.panel).cells := by
    rw [List.foldl_cons, List.foldl_nil, State.monoSink, MonoPanel.receive_data _ _ px hsettled, hchip,
      MonoPanel.payload, MonoPanel.foldl_pageByte px _ hfits, ← hbase]
    exact (Memory.Lands.nil _ _).append (fun _ _ h => Nat.add_left_cancel h) px fun i _ => by simp
  obtain ⟨hin, hout⟩ := hcells
  refine ⟨_, hexec.trans hrun, fun j hj => (hin j hj).trans (List.getElem?_eq_getElem hj), fun a ha => hout a fun j hj => ?_⟩
  change a ≠ base + j
  omega

/-! ## A payload in the window of an SSD1306 or SSD1309 -/

/-- Quotient and remainder of the next number: a new row, or the next place in the row. -/
theorem succ_div_mod {w : Nat} (k : Nat) (hw : 0 < w) :
    (k % w + 1 = w → (k + 1) / w = k / w + 1 ∧ (k + 1) % w = 0) ∧
    (k % w + 1 ≠ w → (k + 1) / w = k / w ∧ (k + 1) % w = k % w + 1) := by
  have hk := Nat.div_add_mod k w
  have hlt := Nat.mod_lt k hw
  refine ⟨fun h => (Nat.div_mod_unique hw).2 ⟨?_, hw⟩, fun h => (Nat.div_mod_unique hw).2 ⟨?_, by omega⟩⟩
  · rw [Nat.mul_succ]
    omega
  · omega

/-- A place in a row of a grid, counted row by row, lies in the grid. -/
theorem place_lt {c w r h : Nat} (hc : c < w) (hr : r < h) : c + w * r < w * h :=
  calc c + w * r < w + w * r := Nat.add_lt_add_right hc _
    _ = w * (r + 1) := by rw [Nat.mul_succ, Nat.add_comm]
    _ ≤ w * h := Nat.mul_le_mul_left _ hr

/-- The address of the `j`-th byte of a payload in a window `w` columns wide from column `cs` and page `ps` on (R126). -/
def windowCell (ps cs w j : Nat) : Nat := monoCell (ps + j / w) (cs + j % w)

theorem windowCell_injective {ps cs w : Nat} (hw : 0 < w) (hcols : cs + w ≤ 65536) :
    Function.Injective (windowCell ps cs w) := by
  intro i j h
  have hi := Nat.mod_lt i hw
  have hj := Nat.mod_lt j hw
  simp only [windowCell, monoCell] at h
  have hdiv : i / w = j / w := by omega
  have hmod : i % w = j % w := by omega
  rw [← Nat.div_add_mod i w, ← Nat.div_add_mod j w, hdiv, hmod]

/-- The panel `q` is `p` with the first bytes `s` of a payload in its window, which holds `n` rows of `w` bytes. -/
structure MonoPanel.Filling (p : MonoPanel) (w n : Nat) (s : List Byte) (q : MonoPanel) : Prop where
  mode : q.mode = p.mode
  columns : q.cs = p.cs ∧ q.ce = p.ce
  pages : q.ps = p.ps ∧ q.pe = p.pe
  pointer : s.length < w * n → q.col = p.cs + s.length % w ∧ q.page = p.ps + s.length / w
  lands : Memory.Lands (windowCell p.ps p.cs w) s p.cells q.cells

/-- A window R126 gives a meaning to: horizontal mode, `w` columns and `n` pages, none of them page 255. -/
structure MonoPanel.Window (p : MonoPanel) (w n : Nat) : Prop where
  mode : p.mode = 0
  width : 0 < w
  columns : p.cs + w = p.ce + 1
  inside : p.cs + w ≤ 65536
  pages : p.ps + n = p.pe + 1
  last : p.pe ≠ 255

/-- One more byte of a payload. -/
theorem MonoPanel.Filling.step {p q : MonoPanel} {w n : Nat} {s : List Byte} (hp : p.Window w n)
    (h : p.Filling w n s q) (hroom : s.length < w * n) (v : Byte) : p.Filling w n (s ++ [v]) (q.windowByte v) := by
  obtain ⟨hmode, ⟨hcs, hce⟩, ⟨hps, hpe⟩, hpointer, hlands⟩ := h
  obtain ⟨hcol, hpage⟩ := hpointer hroom
  have hw := hp.width
  have hcolumns := hp.columns
  have hpages := hp.pages
  have hinside := hp.inside
  have hmod := Nat.mod_lt s.length hw
  have hok : q.windowOk = true := by
    have hlt : q.col < 65536 := by omega
    simp [MonoPanel.windowOk, hmode, hp.mode, hpe, hp.last, hlt]
  have hcell : monoCell q.page q.col = windowCell p.ps p.cs w s.length := by rw [hcol, hpage]; rfl
  have hwritten := hlands.concat (windowCell_injective hw hp.inside) v
  rw [← hcell] at hwritten
  obtain ⟨hwrap, hnext⟩ := succ_div_mod s.length hw
  rw [MonoPanel.windowByte, if_pos hok]
  dsimp only
  split
  · next hend =>
    obtain ⟨hdiv, hzero⟩ := hwrap (by omega)
    refine ⟨hmode, ⟨hcs, hce⟩, ⟨hps, hpe⟩, fun hlt => ?_, hwritten⟩
    rw [List.length_append, List.length_singleton] at hlt ⊢
    rw [hdiv, hzero]
    have hrow : s.length / w + 1 < n := by
      rw [← hdiv]
      exact Nat.div_lt_of_lt_mul hlt
    exact ⟨hcs, by dsimp only; rw [if_neg (by omega), hpage, Nat.add_assoc]⟩
  · next hend =>
    obtain ⟨hdiv, hsucc⟩ := hnext (by omega)
    refine ⟨hmode, ⟨hcs, hce⟩, ⟨hps, hpe⟩, fun _ => ?_, hwritten⟩
    rw [List.length_append, List.length_singleton, hdiv, hsucc]
    exact ⟨by dsimp only; rw [hcol, Nat.add_assoc], hpage⟩

/-- A payload that the window holds fills it row by row. -/
theorem MonoPanel.filling_foldl {p : MonoPanel} {w n : Nat} (hp : p.Window w n) (hcol : p.col = p.cs)
    (hpage : p.page = p.ps) (s : List Byte) (hs : s.length ≤ w * n) :
    p.Filling w n s (s.foldl MonoPanel.windowByte p) := by
  induction s using List.reverseRecOn with
  | nil => exact ⟨rfl, ⟨rfl, rfl⟩, ⟨rfl, rfl⟩, fun _ => by simp [hcol, hpage], Memory.Lands.nil _ _⟩
  | append_singleton s v ih =>
    rw [List.length_append, List.length_singleton] at hs
    rw [List.foldl_concat]
    exact (ih (by omega)).step hp (by omega) v

/-- The same for a payload as the panel takes it (R126). -/
theorem MonoPanel.filling_windowPayload {p : MonoPanel} {w n : Nat} (hp : p.Window w n) (hcol : p.col = p.cs)
    (hpage : p.page = p.ps) (s : List Byte) (hs : s.length ≤ w * n) :
    p.Filling w n s (MonoPanel.windowPayload s p) := by
  have hholds : ∀ m, p.holds = some m → s.length ≤ m := by
    intro m hm
    have hcolumns := hp.columns
    have hpages := hp.pages
    simp only [MonoPanel.holds, Option.ite_none_right_eq_some, Option.some.injEq] at hm
    obtain ⟨-, rfl⟩ := hm
    rwa [show p.ce + 1 - p.cs = w by omega, show p.pe + 1 - p.ps = n by omega]
  rw [MonoPanel.windowPayload_fits s p hholds]
  exact MonoPanel.filling_foldl hp hcol hpage s hs

/-! ## A default-path write -/

/-- The addressing commands of a default-path write set the mode, the ranges and the pointer (R125, R212). -/
theorem MonoPanel.commands_addressing {cfg : MonoCfg} (hchip : cfg.chip ≠ .sh1106) (p : MonoPanel) (c0 c1 p0 p1 : Byte) :
    MonoPanel.commands cfg 8 [0x20, 0x00, 0x21, c0, c1, 0x22, p0, p1] p =
      { p with mode := 0, cs := c0.toNat, ce := c1.toNat, col := c0.toNat, ps := p0.toNat, pe := p1.toNat,
               page := p0.toNat } := by
  have hcommand : ∀ (q : MonoPanel) i, q.command cfg i = q.rangeCommand i := by
    intro q i
    unfold MonoPanel.command
    split
    · contradiction
    · rfl
    · rfl
  have hmode : ∀ rest, decodeMonoByte cfg.chip 0x20 (0x00 :: rest) = some (.monoMemmode 0x00, rest) := fun _ => rfl
  have hcolumns : ∀ rest, decodeMonoByte cfg.chip 0x21 (c0 :: c1 :: rest) = some (.monoColaddr c0 c1, rest) := fun _ => rfl
  have hpages : ∀ rest, decodeMonoByte cfg.chip 0x22 (p0 :: p1 :: rest) = some (.monoPageaddr p0 p1, rest) := fun _ => rfl
  simp only [MonoPanel.commands, hmode, hcolumns, hpages, hcommand, MonoPanel.rangeCommand]
  rfl

theorem MonoPanel.payload_window {chip : Chip} (h : chip ≠ .sh1106) (s : List Byte) (p : MonoPanel) :
    p.payload chip s = MonoPanel.windowPayload s p := by
  cases chip <;> first | rfl | contradiction

/-- The effective length of a write of whole pages that its declared buffer covers. -/
theorem effectiveLength_wholePages {d : Rect} (hwhole : d.height % 8 = 0) (hbuf : d.height / 8 * d.width ≤ d.bufSize) :
    effectiveLength d = d.width * (d.height / 8) := by
  have hbytes : d.height * d.width / 8 = d.height / 8 * d.width := by
    conv_lhs => rw [← Nat.div_mul_cancel (Nat.dvd_of_mod_eq_zero hwhole), Nat.mul_right_comm]
    exact Nat.mul_div_cancel _ (by decide)
  rw [effectiveLength, hbytes, min_eq_right hbuf, Nat.mul_comm]

/-- The window an accepted write of whole pages opens on a well-formed board. -/
theorem monoWindow_of_accepted {cfg : MonoCfg} {x y : Half} {d : BufferDescriptor} (hcfg : monoCfgOk cfg = true)
    (hacc : monoAccepted cfg.width.toNat cfg.height.toNat x.toNat y.toNat d) (hwhole : d.height.toNat % 8 = 0)
    (p : MonoPanel) :
    MonoPanel.Window { p with
        mode := 0, cs := (monoColumnStart cfg x.toNat).toNat, ce := (monoColumnEnd cfg x.toNat d.width.toNat).toNat,
        col := (monoColumnStart cfg x.toNat).toNat, ps := (monoPageStart y.toNat).toNat,
        pe := (monoPageEnd y.toNat d.height.toNat).toNat, page := (monoPageStart y.toNat).toNat }
      d.width.toNat (d.height.toNat / 8) := by
  obtain ⟨hcolStart, hcolEnd, hpageStart, -, hpageEnd, -, -⟩ := monoAddressesFit cfg x y d hcfg hacc
  obtain ⟨-, hwidth, hheight, -, hy, hx, hh⟩ := hacc
  obtain ⟨-, hcolumns, -, -, -⟩ := (monoCfgOk_iff cfg).1 hcfg
  obtain ⟨hpageEnd, hpageLast⟩ := hpageEnd (by omega)
  refine ⟨rfl, hwidth, ?_, ?_, ?_, ?_⟩ <;> dsimp only <;> omega

/-- A list with at most two transfers needs the next two answers only. -/
theorem Env.okFor_two {e : Env} {es : List Entry} (h : xferCount es ≤ 2) (h0 : e.xfer.answer 0 = true)
    (h1 : e.xfer.answer 1 = true) : e.okFor es := by
  intro j hj
  match j, hj with
  | 0, _ => exact h0
  | 1, _ => exact h1
  | j + 2, hj => omega

/-- Settles O56: the addressing transfer opens the window, and the payload is as long as the window holds. -/
theorem defaultWriteFillsItsPages : Obligations.DefaultWriteFillsItsPages := by
  intro x y d pix s t hop hchip hcfg hreset hready _ hsettled hacc hwhole hbuf hpix hfirst hsecond cell hcell h
  have hwidth : 0 < d.width.toNat := hacc.2.1
  have hlen : effectiveLength (rectOf d) = d.width.toNat * (d.height.toNat / 8) := effectiveLength_wholePages hwhole hbuf
  have hpages : 0 < d.height.toNat / 8 := by
    obtain ⟨-, -, hheight, -⟩ := hacc
    omega
  have hcovered : effectiveLength (rectOf d) ≤ pix.length := by rwa [hlen, Nat.mul_comm]
  have hbytes : (pix.take (effectiveLength (rectOf d))).length = d.width.toNat * (d.height.toNat / 8) := by
    rw [List.length_take, min_eq_left hcovered, hlen]
  rw [exec_monoWrite_ready x y d pix hready,
    monoWritePlan_accepted _ _ hacc (by rw [hlen]; exact (Nat.mul_pos hwidth hpages).ne'), monoWritePath_default _ hchip,
    hop] at h
  have hrun := runMono_pix_taken (b := false) (r := .ok) (s := s)
    (monoWriteDefault_within .spec s.mcfg x.toNat y.toNat (rectOf d) hcovered) (Env.okFor_two le_rfl hfirst hsecond)
  have hpanel : t.mono.panel = MonoPanel.windowPayload (pix.take (effectiveLength (rectOf d))) { s.mono.panel with
      mode := 0, cs := (monoColumnStart s.mcfg x.toNat).toNat,
      ce := (monoColumnEnd s.mcfg x.toNat d.width.toNat).toNat, col := (monoColumnStart s.mcfg x.toNat).toNat,
      ps := (monoPageStart y.toNat).toNat, pe := (monoPageEnd y.toNat d.height.toNat).toNat,
      page := (monoPageStart y.toNat).toNat } := by
    rw [← Host.Outcome.next.inj (hrun.symm.trans h), State.monoDid_panel, ← MonoPanel.commands_addressing hchip,
      ← MonoPanel.payload_window hchip, ← MonoPanel.receive_data s.k s.mcfg _ (by
        rw [MonoPanel.commands_addressing hchip]; exact hsettled)]
    exact congrArg (MonoPanel.receive s.k s.mcfg · (datE (pix.take (effectiveLength (rectOf d))))) (MonoPanel.receive_cmd s.mcfg hsettled hreset.symm)
  obtain ⟨-, -, -, -, hin, hout⟩ := MonoPanel.filling_windowPayload
    (monoWindow_of_accepted hcfg hacc hwhole s.mono.panel) rfl rfl (pix.take (effectiveLength (rectOf d))) hbytes.le
  rw [← hpanel, hbytes] at hin hout
  obtain ⟨hcolStart, -, hpageStart, -⟩ := monoAddressesFit s.mcfg x y d hcfg hacc
  simp only [windowCell, hcolStart, hpageStart] at hin hout
  subst hcell
  refine ⟨fun n c hn hc => ?_, fun a ha => hout a fun j hj => ha _ _ (Nat.div_lt_of_lt_mul hj) (Nat.mod_lt j hwidth)⟩
  obtain ⟨hdiv, hmod⟩ := (Nat.div_mod_unique (a := c + d.width.toNat * n) hwidth).2 ⟨rfl, hc⟩
  have hlt : c + d.width.toNat * n < d.width.toNat * (d.height.toNat / 8) := place_lt hc hn
  have hread := hin _ hlt
  rw [hdiv, hmod, List.getElem?_take_of_lt (by rwa [hlen])] at hread
  rw [Nat.mul_comm n, Nat.add_comm _ c]
  exact hread

end Sys2Proof.Machine

/-!
PROOFS. The pixel store of a COLOR panel (R128): the window a write opens, and where the pixels of its stream land.
-/

namespace Sys2Proof.Machine

/-! ## The window -/

theorem toNat_trunc16 (n : Nat) : (trunc16 (n : Int)).toNat = n % 65536 := by
  rw [trunc16, BitVec.ofInt_natCast, BitVec.toNat_ofNat]

/-- The panel once a window is open: its bounds, the pointer at its start, and RAMWR latched (R309, R128). -/
def ColorPanel.opened (cfg : ColorCfg) (x y w h : Nat) (p : ColorPanel) : ColorPanel :=
  { p with
    xs := (trunc16 ((x : Int) + cfg.xOffset.toNat)).toNat, xe := (trunc16 ((x : Int) + cfg.xOffset.toNat + w - 1)).toNat,
    ys := (trunc16 ((y : Int) + cfg.yOffset.toNat)).toNat, ye := (trunc16 ((y : Int) + cfg.yOffset.toNat + h - 1)).toNat,
    col := (trunc16 ((x : Int) + cfg.xOffset.toNat)).toNat, row := (trunc16 ((y : Int) + cfg.yOffset.toNat)).toNat,
    latch := 0x2C }

theorem ColorPanel.opened_settled (cfg : ColorCfg) (x y w h : Nat) (p : ColorPanel) :
    (p.opened cfg x y w h).settled = p.settled := rfl

/-- The transfers of a window open it. -/
theorem ColorPanel.foldl_window (cfg : ColorCfg) (x y w h : Nat) {p : ColorPanel} (hsettled : p.settled = true)
    (hpending : p.pending = []) :
    (colorWindowTrace .spec cfg x y w h).foldl (ColorPanel.receive cfg) p = p.opened cfg x y w h := by
  cases p
  simp_all [colorWindowTrace, ColorPanel.receive, cmdE, datE, ColorPanel.command, ColorPanel.dropPartial,
    ColorPanel.data, ofBe16_hi8_lo8, ColorOps.spec, ColorPanel.opened]

/-- A bound of a window that does not wrap. -/
theorem toNat_windowBound {v off : Nat} (h : v + off < 65536) : (trunc16 ((v : Int) + off)).toNat = v + off := by
  rw [← Int.natCast_add, toNat_trunc16, Nat.mod_eq_of_lt h]

theorem toNat_windowLast {v off size : Nat} (hpos : 0 < size) (h : v + off + size ≤ 65536) :
    (trunc16 ((v : Int) + off + size - 1)).toNat = v + off + size - 1 := by
  rw [show (v : Int) + off + size - 1 = ((v + off + size - 1 : Nat) : Int) by omega, toNat_trunc16,
    Nat.mod_eq_of_lt (by omega)]

/-- What a settled COLOR panel does with a data transfer after RAMWR. -/
theorem ColorPanel.receive_stream (cfg : ColorCfg) {p : ColorPanel} (s : List Byte) (hsettled : p.settled = true)
    (hlatch : p.latch = 0x2C) : p.receive cfg (datE s) = s.foldl (ColorPanel.streamByte cfg) p := by
  simp [ColorPanel.receive, datE, hsettled, ColorPanel.data, hlatch]

/-! ## Pixels -/

/-- The bytes that complete a pixel in the window: it is written and the pointer advances. -/
theorem ColorPanel.foldl_pixel (cfg : ColorCfg) (px : List Byte) {p : ColorPanel} (hok : p.windowOk cfg = true)
    (hformat : p.formatOk = true) (hne : px ≠ []) (hlen : p.pending.length + px.length = cfg.pixelFormat.bytes) :
    px.foldl (ColorPanel.streamByte cfg) p =
      ({ p with cells := p.cells.writeAll (colorCell p.row p.col) (p.pending ++ px), pending := [] } : ColorPanel).advance := by
  induction px generalizing p with
  | nil => contradiction
  | cons v px ih =>
    rw [List.foldl_cons, ColorPanel.streamByte, if_pos (by rw [hok, hformat]; rfl)]
    cases px with
    | nil => exact if_pos (by rw [List.length_append]; exact hlen)
    | cons u px =>
      have hshort : (p.pending ++ [v]).length ≠ cfg.pixelFormat.bytes := by
        simp only [List.length_append, List.length_cons, List.length_nil] at hlen ⊢
        omega
      dsimp only
      rw [if_neg hshort, ih (p := { p with pending := p.pending ++ [v] }) hok hformat (by simp) (by
        simp only [List.length_append, List.length_cons, List.length_nil] at hlen ⊢
        omega), List.append_assoc]
      rfl

/-- The address of byte `j` of a pixel stream of `ps`-byte pixels, in a window `w` columns wide from column `xs` and row
`ys` on (R128). -/
def streamCell (ys xs w ps j : Nat) : Nat := colorCell (ys + j / ps / w) (xs + j / ps % w) + j % ps

theorem streamCell_injective {ys xs w ps : Nat} (hw : 0 < w) (hcols : xs + w ≤ 65536) (hps : 0 < ps) (hps4 : ps ≤ 4) :
    Function.Injective (streamCell ys xs w ps) := by
  intro i j h
  have hi := Nat.mod_lt i hps
  have hj := Nat.mod_lt j hps
  have hi' := Nat.mod_lt (i / ps) hw
  have hj' := Nat.mod_lt (j / ps) hw
  simp only [streamCell, colorCell] at h
  have hrow : i / ps / w = j / ps / w := by omega
  have hcol : i / ps % w = j / ps % w := by omega
  have hbyte : i % ps = j % ps := by omega
  have hpixel : i / ps = j / ps := by rw [← Nat.div_add_mod (i / ps) w, ← Nat.div_add_mod (j / ps) w, hrow, hcol]
  rw [← Nat.div_add_mod i ps, ← Nat.div_add_mod j ps, hpixel, hbyte]

/-- A window of `w` by `h` pixels inside the panel, whose pixels are all finished. -/
structure ColorPanel.Window (cfg : ColorCfg) (p : ColorPanel) (w h : Nat) : Prop where
  width : 0 < w
  columns : p.xs + w = p.xe + 1
  left : cfg.xOffset.toNat ≤ p.xs
  right : p.xe < cfg.xOffset.toNat + cfg.width.toNat
  inside : p.xs + w ≤ 65536
  rows : p.ys + h = p.ye + 1
  top : cfg.yOffset.toNat ≤ p.ys
  bottom : p.ye < cfg.yOffset.toNat + cfg.height.toNat
  format : p.formatOk = true
  finished : p.pending = []

/-- The window of a rectangle inside a panel that fits 16-bit addresses. -/
theorem ColorPanel.window_opened {cfg : ColorCfg} {x y w h : Nat} {p : ColorPanel} (hw : 0 < w) (hh : 0 < h)
    (hx : x + w ≤ cfg.width.toNat) (hy : y + h ≤ cfg.height.toNat)
    (hcols : cfg.xOffset.toNat + cfg.width.toNat ≤ 65536) (hrows : cfg.yOffset.toNat + cfg.height.toNat ≤ 65536)
    (hformat : p.formatOk = true) (hpending : p.pending = []) :
    (p.opened cfg x y w h).Window cfg w h ∧ (p.opened cfg x y w h).xs = x + cfg.xOffset.toNat ∧
      (p.opened cfg x y w h).ys = y + cfg.yOffset.toNat := by
  have hxs : (p.opened cfg x y w h).xs = x + cfg.xOffset.toNat := toNat_windowBound (by omega)
  have hys : (p.opened cfg x y w h).ys = y + cfg.yOffset.toNat := toNat_windowBound (by omega)
  have hxe : (p.opened cfg x y w h).xe = x + cfg.xOffset.toNat + w - 1 := toNat_windowLast hw (by omega)
  have hye : (p.opened cfg x y w h).ye = y + cfg.yOffset.toNat + h - 1 := toNat_windowLast hh (by omega)
  refine ⟨⟨hw, ?_, ?_, ?_, ?_, ?_, ?_, ?_, hformat, hpending⟩, hxs, hys⟩ <;> omega

/-- The panel `q` is `p` with the first bytes `s`, whole pixels, of a stream in its window of `w` by `h` pixels. -/
structure ColorPanel.Streaming (p : ColorPanel) (w h ps : Nat) (s : List Byte) (q : ColorPanel) : Prop where
  rest : q = { p with cells := q.cells, col := q.col, row := q.row }
  pointer : s.length < ps * (w * h) → q.col = p.xs + s.length / ps % w ∧ q.row = p.ys + s.length / ps / w
  lands : Memory.Lands (streamCell p.ys p.xs w ps) s p.cells q.cells

/-- One more pixel of a stream. -/
theorem ColorPanel.Streaming.step {cfg : ColorCfg} {p q : ColorPanel} {w h i : Nat} {s px : List Byte}
    (hp : p.Window cfg w h) (hq : p.Streaming w h cfg.pixelFormat.bytes s q) (hs : s.length = cfg.pixelFormat.bytes * i)
    (hi : i < w * h) (hpx : px.length = cfg.pixelFormat.bytes) :
    p.Streaming w h cfg.pixelFormat.bytes (s ++ px) (px.foldl (ColorPanel.streamByte cfg) q) := by
  obtain ⟨hrest, hpointer, hlands⟩ := hq
  obtain ⟨cells, col, row, rfl⟩ : ∃ cells col row, q = { p with cells := cells, col := col, row := row } :=
    ⟨_, _, _, hrest⟩
  have hps := colorFormat_bytes_pos cfg.pixelFormat
  have hps4 : cfg.pixelFormat.bytes ≤ 4 := by cases cfg.pixelFormat <;> decide
  obtain ⟨hcol, hrow⟩ := hpointer (by rw [hs]; exact Nat.mul_lt_mul_of_pos_left hi hps)
  rw [hs, Nat.mul_div_cancel_left _ hps] at hcol hrow
  dsimp only at hcol hrow hlands
  obtain ⟨hwidth, hcolumns, hleft, hright, hinside, hrows, htop, hbottom, hformat, hfinished⟩ := hp
  have hmod := Nat.mod_lt i hwidth
  have hdiv : i / w < h := Nat.div_lt_of_lt_mul hi
  have hok : ColorPanel.windowOk cfg { p with cells := cells, col := col, row := row } = true := by
    have hpos : 0 ≤ i / w := Nat.zero_le _
    simp only [ColorPanel.windowOk, Bool.and_eq_true, decide_eq_true_eq]
    omega
  have hlanded : Memory.Lands (streamCell p.ys p.xs w cfg.pixelFormat.bytes) (s ++ px) p.cells
      (cells.writeAll (colorCell row col) px) := by
    refine hlands.append (streamCell_injective hwidth hinside hps hps4) px fun k hk => ?_
    obtain ⟨hpixel, hbyte⟩ := (Nat.div_mod_unique (a := k + cfg.pixelFormat.bytes * i) hps).2 ⟨rfl, hpx ▸ hk⟩
    rw [hs, Nat.add_comm, streamCell, hpixel, hbyte, hcol, hrow]
  have hcount : (s ++ px).length / cfg.pixelFormat.bytes = i + 1 := by
    rw [List.length_append, hs, hpx, ← Nat.mul_succ, Nat.mul_div_cancel_left _ hps]
  obtain ⟨hwrap, hnext⟩ := succ_div_mod i hwidth
  rw [ColorPanel.foldl_pixel cfg px hok hformat (by rintro rfl; simp at hpx; omega) (by simpa [hfinished] using hpx)]
  simp only [ColorPanel.advance]
  split
  · next hend =>
    obtain ⟨hnewRow, hnewCol⟩ := hwrap (by omega)
    refine ⟨by rw [hfinished], fun hlt => ?_, by rw [hfinished]; exact hlanded⟩
    rw [hcount, hnewRow, hnewCol]
    have hlt' : i + 1 < w * h := by
      rw [List.length_append, hs, hpx, ← Nat.mul_succ] at hlt
      exact Nat.lt_of_mul_lt_mul_left hlt
    have hlast : i / w + 1 < h := hnewRow ▸ Nat.div_lt_of_lt_mul hlt'
    exact ⟨rfl, by dsimp only; rw [if_neg (by omega), hrow, Nat.add_assoc]⟩
  · next hend =>
    obtain ⟨hsameRow, hnewCol⟩ := hnext (by omega)
    refine ⟨by rw [hfinished], fun _ => ?_, by rw [hfinished]; exact hlanded⟩
    rw [hcount, hsameRow, hnewCol]
    exact ⟨by dsimp only; rw [hcol, Nat.add_assoc], hrow⟩

/-- A stream of whole pixels that the window holds fills it row by row. -/
theorem ColorPanel.streaming_foldl {cfg : ColorCfg} {p : ColorPanel} {w h : Nat} (hp : p.Window cfg w h)
    (hcol : p.col = p.xs) (hrow : p.row = p.ys) (n : Nat) (hn : n ≤ w * h) (s : List Byte)
    (hs : s.length = cfg.pixelFormat.bytes * n) :
    p.Streaming w h cfg.pixelFormat.bytes s (s.foldl (ColorPanel.streamByte cfg) p) := by
  induction n generalizing s with
  | zero =>
    obtain rfl : s = [] := List.length_eq_zero_iff.1 hs
    exact ⟨rfl, fun _ => by simp [hcol, hrow], Memory.Lands.nil _ _⟩
  | succ n ih =>
    rw [Nat.mul_succ] at hs
    have hfirst : (s.take (cfg.pixelFormat.bytes * n)).length = cfg.pixelFormat.bytes * n := by
      rw [List.length_take, hs]
      omega
    have hlast : (s.drop (cfg.pixelFormat.bytes * n)).length = cfg.pixelFormat.bytes := by
      rw [List.length_drop, hs]
      omega
    have hstep := (ih (by omega) _ hfirst).step hp hfirst (by omega) hlast
    rwa [← List.foldl_append, List.take_append_drop] at hstep

/-- The transfers of a strided stream are its rows one after the other. -/
theorem ColorPanel.foldl_rows {cfg : ColorCfg} {p : ColorPanel} {w h : Nat} (hp : p.Window cfg w h)
    (hcol : p.col = p.xs) (hrow : p.row = p.ys) (hsettled : p.settled = true) (hlatch : p.latch = 0x2C)
    {f : Nat → List Byte} (n : Nat) (hn : n ≤ h) (hf : ∀ r, r < n → (f r).length = w * cfg.pixelFormat.bytes) :
    ((List.range n).map fun r => datE (f r)).foldl (ColorPanel.receive cfg) p =
      ((List.range n).flatMap f).foldl (ColorPanel.streamByte cfg) p := by
  induction n with
  | zero => rfl
  | succ n ih =>
    have hlen : ((List.range n).flatMap f).length = cfg.pixelFormat.bytes * (w * n) := by
      rw [length_flatMap_blocks fun r hr => hf r (Nat.lt_succ_of_lt (List.mem_range.1 hr)), List.length_range]
      ring
    have hrest := (ColorPanel.streaming_foldl hp hcol hrow (w * n) (Nat.mul_le_mul_left w (by omega)) _ hlen).rest
    rw [List.range_succ, List.map_append, List.flatMap_append, List.foldl_append, List.foldl_append,
      ih (by omega) fun r hr => hf r (by omega)]
    simp only [List.map_cons, List.map_nil, List.foldl_cons, List.foldl_nil, List.flatMap_cons, List.flatMap_nil,
      List.append_nil]
    exact ColorPanel.receive_stream cfg _ ((congrArg ColorPanel.settled hrest).trans hsettled)
      ((congrArg ColorPanel.latch hrest).trans hlatch)

/-! ## Writes -/

/-- Where the bytes of a stream that fills its window stand in the store. -/
theorem Memory.Lands.window {ys xs w h ps : Nat} {s : List Byte} {m m' : Memory} (hw : 0 < w) (hps : 0 < ps)
    (hs : s.length = ps * (w * h)) (hlands : Memory.Lands (streamCell ys xs w ps) s m m') :
    (∀ r c k, r < h → c < w → k < ps →
      Memory.read m' (colorCell (ys + r) (xs + c) + k) = s[k + ps * (c + w * r)]?) ∧
    ∀ a, (∀ r c k, r < h → c < w → k < ps → a ≠ colorCell (ys + r) (xs + c) + k) →
      Memory.read m' a = Memory.read m a := by
  obtain ⟨hin, hout⟩ := hlands
  rw [hs] at hin hout
  refine ⟨fun r c k hr hc hk => ?_, fun a ha => hout a fun j hj => ?_⟩
  · obtain ⟨hpixel, hbyte⟩ := (Nat.div_mod_unique (a := k + ps * (c + w * r)) hps).2 ⟨rfl, hk⟩
    obtain ⟨hrow, hcol⟩ := (Nat.div_mod_unique (a := c + w * r) hw).2 ⟨rfl, hc⟩
    have hread := hin _ (place_lt hk (place_lt hc hr))
    rwa [streamCell, hpixel, hbyte, hrow, hcol] at hread
  · have hpixel : j / ps < w * h := Nat.div_lt_of_lt_mul hj
    exact ha _ _ _ (Nat.div_lt_of_lt_mul hpixel) (Nat.mod_lt _ hw) (Nat.mod_lt _ hps)

/-- What a COLOR write does to its panel, from whatever the working registers hold, when its transfers are taken. -/
theorem colorWrite_panel {x y : Half} {d : BufferDescriptor} {pix : List Byte} {s t : State} (hop : s.cop = .spec)
    (hready : s.color.regs.phase = .ready) (hpitch : d.width.toNat ≤ d.pitch.toNat) (hw : d.width ≠ 0) (hh : d.height ≠ 0)
    (hbuf : bytesNeeded s.ccfg.pixelFormat.bytes (rectOf d) ≤ d.bufSize.toNat)
    (hpix : bytesNeeded s.ccfg.pixelFormat.bytes (rectOf d) ≤ pix.length)
    (htaken : ∀ j, j < 5 + xferCount (entriesOf pix (colorStream s.ccfg.pixelFormat.bytes (rectOf d))) →
      s.color.env.xfer.answer j = true)
    (hsettled : s.color.panel.settled = true) (hpending : s.color.panel.pending = [])
    (h : exec (.colorWrite x y d pix) s = .next t) :
    t.color.panel = (entriesOf pix (colorStream s.ccfg.pixelFormat.bytes (rectOf d))).foldl (ColorPanel.receive s.ccfg)
      (s.color.panel.opened s.ccfg x.toNat y.toNat d.width.toNat d.height.toNat) := by
  have hwidth : (rectOf d).width ≠ 0 := fun h => hw (BitVec.eq_of_toNat_eq h)
  have hheight : (rectOf d).height ≠ 0 := fun h => hh (BitVec.eq_of_toNat_eq h)
  have hentries : entriesOf pix (colorWindow .spec s.ccfg x.toNat y.toNat (rectOf d) ++
      colorStream s.ccfg.pixelFormat.bytes (rectOf d)) =
      colorWindowTrace .spec s.ccfg x.toNat y.toNat d.width.toNat d.height.toNat ++
        entriesOf pix (colorStream s.ccfg.pixelFormat.bytes (rectOf d)) := by
    rw [entriesOf_append, entriesOf_colorWindow]
    rfl
  rw [exec_colorWrite_ready x y d pix hready, hop, colorWritePlan_covered _ _ _ _ hpitch hwidth hheight hbuf] at h
  have hrun := runColor_pix_taken (b := false) (r := .ok) (s := s)
    (List.forall_mem_append.2 ⟨fun m hm => (colorWindow_reads_nothing .spec s.ccfg x.toNat y.toNat (rectOf d) pix m hm).1,
      colorStream_within _ (rectOf d) pix hheight hpix⟩) (by rw [hentries, Env.okFor, xferCount_append]; exact htaken)
  rw [← Host.Outcome.next.inj (hrun.symm.trans h), State.colorDid_panel, hentries, List.foldl_append, State.colorSink,
    ColorPanel.foldl_window s.ccfg _ _ _ _ hsettled hpending]

theorem toNat_pos_of_ne_zero {v : Half} (h : v ≠ 0) : 0 < v.toNat :=
  Nat.pos_of_ne_zero fun h0 => h (BitVec.eq_of_toNat_eq h0)

/-- The store after a stream that fills the window of a rectangle inside the panel. -/
theorem ColorPanel.opened_filled {cfg : ColorCfg} {x y w h : Nat} {p : ColorPanel} {s : List Byte}
    (hwindow : (p.opened cfg x y w h).Window cfg w h) (hxs : (p.opened cfg x y w h).xs = x + cfg.xOffset.toNat)
    (hys : (p.opened cfg x y w h).ys = y + cfg.yOffset.toNat) (hs : s.length = cfg.pixelFormat.bytes * (w * h))
    {m : Memory} (hm : m = (s.foldl (ColorPanel.streamByte cfg) (p.opened cfg x y w h)).cells) :
    (∀ r c k, r < h → c < w → k < cfg.pixelFormat.bytes →
      Memory.read m (colorCell (y + cfg.yOffset.toNat + r) (x + cfg.xOffset.toNat + c) + k) =
        s[k + cfg.pixelFormat.bytes * (c + w * r)]?) ∧
    ∀ a, (∀ r c k, r < h → c < w → k < cfg.pixelFormat.bytes →
        a ≠ colorCell (y + cfg.yOffset.toNat + r) (x + cfg.xOffset.toNat + c) + k) →
      Memory.read m a = Memory.read p.cells a := by
  have hlands := (ColorPanel.streaming_foldl hwindow rfl rfl _ le_rfl s hs).lands
  rw [← hm, hxs, hys] at hlands
  exact hlands.window hwindow.width (colorFormat_bytes_pos _) hs

/-- Settles O57: the one data transfer streams `width * height` pixels into the window. -/
theorem contiguousWriteFillsItsWindow : Obligations.ContiguousWriteFillsItsWindow := by
  intro x y d pix s t hop hready _ hsettled hpending hformat hpitch hw hh hx hy hcols hrows ps hps hbuf hpix htaken cell
    hcell h
  subst hps
  have heq : (rectOf d).pitch = (rectOf d).width := congrArg BitVec.toNat hpitch
  have hbytes : bytesNeeded s.ccfg.pixelFormat.bytes (rectOf d) =
      d.width.toNat * d.height.toNat * s.ccfg.pixelFormat.bytes := by
    rw [bytesNeeded, if_pos heq]
    rfl
  have hstream : entriesOf pix (colorStream s.ccfg.pixelFormat.bytes (rectOf d)) =
      [datE (pix.take (d.width.toNat * d.height.toNat * s.ccfg.pixelFormat.bytes))] := by
    rw [colorStream, if_pos heq]
    rfl
  have hpanel := colorWrite_panel hop hready heq.ge hw hh (hbytes ▸ hbuf) (hbytes ▸ hpix)
    (by rw [hstream]; exact htaken) hsettled hpending h
  rw [hstream, List.foldl_cons, List.foldl_nil,
    ColorPanel.receive_stream s.ccfg _ ((ColorPanel.opened_settled ..).trans hsettled) rfl] at hpanel
  obtain ⟨hwindow, hxs, hys⟩ := ColorPanel.window_opened (p := s.color.panel) (toNat_pos_of_ne_zero hw)
    (toNat_pos_of_ne_zero hh) hx hy hcols hrows hformat hpending
  obtain ⟨hin, hout⟩ := ColorPanel.opened_filled hwindow hxs hys
    (by rw [List.length_take, min_eq_left hpix, Nat.mul_comm]) (congrArg ColorPanel.cells hpanel)
  subst hcell
  refine ⟨fun r c k hr hc hk => ?_, hout⟩
  have hlt := place_lt hk (place_lt hc hr)
  rw [hin r c k hr hc hk, List.getElem?_take_of_lt (by rwa [Nat.mul_comm _ s.ccfg.pixelFormat.bytes])]
  congr 1
  ring

theorem xferCount_map_datE {α : Type} (f : α → List Byte) (l : List α) :
    xferCount (l.map fun a => datE (f a)) = l.length := by
  induction l with
  | nil => rfl
  | cons a l ih => rw [List.map_cons, xferCount_cons, ih]; rfl

/-- The bytes of row `r` of a rectangle in a buffer (R312). -/
def bufferRow (pix : List Byte) (width pitch ps r : Nat) : List Byte := (pix.drop (r * pitch * ps)).take (width * ps)

theorem length_bufferRow {pix : List Byte} {width pitch ps height r : Nat} (hr : r < height)
    (h : ((height - 1) * pitch + width) * ps ≤ pix.length) : (bufferRow pix width pitch ps r).length = width * ps := by
  have hle : (r * pitch + width) * ps ≤ pix.length :=
    (Nat.mul_le_mul_right _ (Nat.add_le_add_right (Nat.mul_le_mul_right _ (by omega)) _)).trans h
  rw [Nat.add_mul] at hle
  rw [bufferRow, List.length_take, List.length_drop]
  omega

theorem getElem?_bufferRow {pix : List Byte} {width pitch ps r c k : Nat} (hc : c < width) (hk : k < ps) :
    (bufferRow pix width pitch ps r)[k + ps * c]? = pix[(r * pitch + c) * ps + k]? := by
  have hlt : k + ps * c < width * ps := by
    rw [Nat.mul_comm width]
    exact place_lt hk hc
  rw [bufferRow, List.getElem?_take_of_lt hlt, List.getElem?_drop]
  congr 1
  ring

/-- Settles O60: the rows are one stream of `width * height` pixels (`foldl_rows`), each row taken from its place in the
buffer. -/
theorem stridedWriteFillsItsWindow : Obligations.StridedWriteFillsItsWindow := by
  intro x y d pix s t hop hready _ hsettled hpending hformat hpitch hw hh hx hy hcols hrows ps hps hbuf hpix htaken cell
    hcell h
  subst hps
  have hne : ¬ (rectOf d).pitch = (rectOf d).width := hpitch.ne'
  have hbytes : bytesNeeded s.ccfg.pixelFormat.bytes (rectOf d) =
      ((d.height.toNat - 1) * d.pitch.toNat + d.width.toNat) * s.ccfg.pixelFormat.bytes := by
    rw [bytesNeeded, if_neg hne]
    rfl
  let row := bufferRow pix d.width.toNat d.pitch.toNat s.ccfg.pixelFormat.bytes
  have hrowLen : ∀ r, r < d.height.toNat → (row r).length = d.width.toNat * s.ccfg.pixelFormat.bytes :=
    fun r hr => length_bufferRow hr hpix
  have hstream : entriesOf pix (colorStream s.ccfg.pixelFormat.bytes (rectOf d)) =
      (List.range d.height.toNat).map fun r => datE (row r) := by
    rw [colorStream, if_neg hne, (colorRows_spec pix _ _ _ _ _).1, ← List.range_eq_range']
    rfl
  have hpanel := colorWrite_panel hop hready hpitch.le hw hh (hbytes ▸ hbuf) (hbytes ▸ hpix)
    (by rwa [hstream, xferCount_map_datE, List.length_range]) hsettled hpending h
  obtain ⟨hwindow, hxs, hys⟩ := ColorPanel.window_opened (p := s.color.panel) (toNat_pos_of_ne_zero hw)
    (toNat_pos_of_ne_zero hh) hx hy hcols hrows hformat hpending
  rw [hstream, ColorPanel.foldl_rows hwindow rfl rfl ((ColorPanel.opened_settled ..).trans hsettled) rfl _ le_rfl
    hrowLen] at hpanel
  have hrows : ∀ r ∈ List.range d.height.toNat, (row r).length = d.width.toNat * s.ccfg.pixelFormat.bytes :=
    fun r hr => hrowLen r (List.mem_range.1 hr)
  have hlen : ((List.range d.height.toNat).flatMap row).length =
      s.ccfg.pixelFormat.bytes * (d.width.toNat * d.height.toNat) := by
    rw [length_flatMap_blocks hrows, List.length_range]
    ring
  obtain ⟨hin, hout⟩ := ColorPanel.opened_filled hwindow hxs hys hlen (congrArg ColorPanel.cells hpanel)
  subst hcell
  refine ⟨fun r c k hr hc hk => ?_, hout⟩
  have hplace : k + s.ccfg.pixelFormat.bytes * c < d.width.toNat * s.ccfg.pixelFormat.bytes := by
    rw [Nat.mul_comm d.width.toNat]
    exact place_lt hk hc
  rw [hin r c k hr hc hk, show k + s.ccfg.pixelFormat.bytes * (c + d.width.toNat * r) =
    d.width.toNat * s.ccfg.pixelFormat.bytes * r + (k + s.ccfg.pixelFormat.bytes * c) by ring,
    getElem?_flatMap_blocks _ row hrows hplace, List.getElem?_range hr]
  exact getElem?_bufferRow hc hk

end Sys2Proof.Machine
